-- ==== Sys2Proof/Config.lean ====
section
/-! DEFINITION. The parameters of the hardware, each row of 00_scope.md R6: constant over a run, not state
(10_state.md R33). A type that fixes a width or a count as a numeral (`Byte`, `Reg`, an index) agrees with its parameter:
Laws/State.lean says so, true by `rfl` (log 30). -/

namespace Sys2Proof.Config

/-- `XLEN`: bits of a general register (00_scope.md R6). -/
abbrev xlen : Nat := 8

/-- `NREG`: general registers (00_scope.md R6). -/
abbrev nreg : Nat := 16

/-- `SIZE`: valid addresses are `[0, SIZE)` (00_scope.md R6, D1; log 5). DESIGN CHOICE of the spec. -/
abbrev memSize : Nat := 4096

/-- `PROG_BASE`: where `load` puts the first byte of the image (00_scope.md R6). -/
abbrev progBase : Nat := 0x200

/-- `FONT_BASE`: the address of the first font byte (00_scope.md R6, D2; log 5). DESIGN CHOICE of the spec. -/
abbrev fontBase : Nat := 0x050

/-- `FONT_TABLE`, 16 glyphs of 5 bytes, top row first: a parameter, here the default of 20_memory.md R66
(00_scope.md R6, D3; log 4). PRESUMED by the spec itself from general knowledge. -/
def fontTable : List (BitVec 8) :=
  [0xF0, 0x90, 0x90, 0x90, 0xF0,   0x20, 0x60, 0x20, 0x20, 0x70] ++
  [0xF0, 0x10, 0xF0, 0x80, 0xF0,   0xF0, 0x10, 0xF0, 0x10, 0xF0] ++
  [0x90, 0x90, 0xF0, 0x10, 0x10,   0xF0, 0x80, 0xF0, 0x10, 0xF0] ++
  [0xF0, 0x80, 0xF0, 0x90, 0xF0,   0xF0, 0x10, 0x20, 0x40, 0x40] ++
  [0xF0, 0x90, 0xF0, 0x90, 0xF0,   0xF0, 0x90, 0xF0, 0x10, 0xF0] ++
  [0xF0, 0x90, 0xF0, 0x90, 0x90,   0xE0, 0x90, 0xE0, 0x90, 0xE0] ++
  [0xF0, 0x80, 0x80, 0x80, 0xF0,   0xE0, 0x90, 0x90, 0x90, 0xE0] ++
  [0xF0, 0x80, 0xF0, 0x80, 0xF0,   0xF0, 0x80, 0xF0, 0x80, 0x80]

/-- `STACK_DEPTH`: entries of the call stack (00_scope.md R6). -/
abbrev stackDepth : Nat := 16

/-- `FB_W`: pixels in a row of the framebuffer (00_scope.md R6). -/
abbrev fbW : Nat := 64

/-- `FB_H`: rows of the framebuffer (00_scope.md R6). -/
abbrev fbH : Nat := 32

/-- `NKEYS`: entries of the key latch (00_scope.md R6). -/
abbrev nkeys : Nat := 16

/-- `ILEN`: bytes of an instruction (00_scope.md R6). -/
abbrev ilen : Nat := 2

/-- `UNKNOWN_POLICY`: what an unknown opcode does to the state (40_step_cycle.md R128).
It is OPEN in the spec, so it is an argument of `operate` and no constant (log 7). -/
inductive UnknownPolicy where
  | halt
  | skip
  deriving DecidableEq, Repr

/-- `FLAG_WRITE_ORDER` of D7: which of the two register writes of `ADD` and `SUB` comes last. -/
inductive FlagWriteOrder where
  | flagFirst
  | flagLast
  deriving DecidableEq, Repr

/-- The order of 40_step_cycle.md R126: the flag first, the result second (D7; log 6). -/
def flagWriteOrder : FlagWriteOrder := .flagFirst

/-- `TICK_HZ`: OPEN in the spec and used by no rule (70_reset_and_hazards.md R256; log 20). -/
opaque tickHz : Nat

end Sys2Proof.Config
end

