-- ==== Sys2Proof/Word.lean ====
section
/-! DEFINITION. The word types of the machine: all its values are unsigned bit vectors (00_scope.md R8). -/

namespace Sys2Proof

/-- The addressable unit and the width of a general register, `Config.xlen` bits (20_memory.md R60, 10_state.md R21). -/
abbrev Byte := BitVec 8

/-- An instruction word; also the width of `I`, `PC` and a call-stack entry (10_state.md R20). -/
abbrev Word := BitVec 16

/-- A register number, one of `Config.nreg`, `V0` to `VF` (10_state.md R21). -/
abbrev Reg := Fin 16

/-- `VF`, the register that doubles as the flags register (10_state.md R22). -/
abbrev regF : Reg := 15

end Sys2Proof
end

