-- ==== Sys2Proof/Syntax.lean ====
section
/-! DEFINITION. The instructions: one constructor per row of the opcode map (30_encoding.md R96). -/

namespace Sys2Proof

/-- The 18 instructions. Every field has the width of its field in the word (30_encoding.md R92), and every value
of a field is legal (R93), so each term is an instruction the hardware has. -/
inductive Instr where
  /-- `00E0`, clear screen (44_display.md R180). -/
  | cls
  /-- `00EE`, return (41_control_flow.md R140). -/
  | ret
  /-- `1NNN`, jump (41_control_flow.md R141). -/
  | jp (nnn : BitVec 12)
  /-- `2NNN`, call (41_control_flow.md R142). -/
  | call (nnn : BitVec 12)
  /-- `3XNN`, skip if register equals immediate (42_conditional_skips.md R150). -/
  | skeqi (x : Reg) (nn : Byte)
  /-- `4XNN`, skip if register differs from immediate (42_conditional_skips.md R151). -/
  | sknei (x : Reg) (nn : Byte)
  /-- `5XY0`, skip if two registers are equal (42_conditional_skips.md R152). -/
  | skeqr (x y : Reg)
  /-- `6XNN`, load immediate (43_load_and_alu.md R160). -/
  | ldi (x : Reg) (nn : Byte)
  /-- `7XNN`, add immediate (43_load_and_alu.md R161). -/
  | addi (x : Reg) (nn : Byte)
  /-- `8XY0`, copy register (43_load_and_alu.md R162). -/
  | mov (x y : Reg)
  /-- `8XY1`, bitwise or (43_load_and_alu.md R163). -/
  | or (x y : Reg)
  /-- `8XY2`, bitwise and (43_load_and_alu.md R164). -/
  | and (x y : Reg)
  /-- `8XY3`, bitwise exclusive or (43_load_and_alu.md R165). -/
  | xor (x y : Reg)
  /-- `8XY4`, add with carry out (43_load_and_alu.md R166). -/
  | add (x y : Reg)
  /-- `8XY5`, subtract with no-borrow flag (43_load_and_alu.md R167). -/
  | sub (x y : Reg)
  /-- `DXYN`, draw a sprite of `n` rows (44_display.md R181). -/
  | draw (x y : Reg) (n : BitVec 4)
  /-- `EX9E`, skip if the key is pressed (45_input_skips.md R190). -/
  | skp (x : Reg)
  /-- `EXA1`, skip if the key is not pressed (45_input_skips.md R191). -/
  | sknp (x : Reg)
  deriving DecidableEq, Repr

end Sys2Proof
end

