-- ==== Sys2Proof/WellFormed.lean ====
section
/-! DEFINITION. Well-formedness. A term of `Instr` carries its operands' ranges in its types, so it has nothing left to
check; what can be ill formed is a row of the opcode map, a pair of rows, and an instruction word (30_encoding.md R94
to R98). -/

namespace Sys2Proof

/-- One row of the opcode map: its mnemonic, its `match` and its `mask` (30_encoding.md R96). -/
structure Row where
  mnemonic : String
  pattern  : Word
  mask     : Word
  deriving DecidableEq, Repr

/-- A word `w` is the row's instruction iff `(w & mask) = match` (30_encoding.md R96). -/
def rowMatches (r : Row) (w : Word) : Bool := w &&& r.mask == r.pattern

/-- A row's pattern has no bit outside its mask: otherwise no word could match it. -/
def rowWellFormed (r : Row) : Bool := r.pattern &&& r.mask == r.pattern

/-- Two rows cannot both match a word: some bit fixed by both has different values (30_encoding.md R94). -/
def rowsDisjoint (r q : Row) : Bool := (r.pattern ^^^ q.pattern) &&& r.mask &&& q.mask != 0

/-- Every row can match, and no two rows can match the same word (30_encoding.md R94). -/
def tableWellFormed : List Row → Bool
  | [] => true
  | r :: rs => rowWellFormed r && rs.all (rowsDisjoint r) && tableWellFormed rs

/-- A word is legal, not reserved, iff it matches a row of the table (30_encoding.md R94, R98). -/
def wordLegal (table : List Row) (w : Word) : Bool := table.any (rowMatches · w)

end Sys2Proof
end

