-- ==== Sys2Proof/Decode.lean ====
section
/-! DEFINITION. The decoder (30_encoding.md R90 to R98), the encoder, and the host's view of the decoder. -/

namespace Sys2Proof

/-- Why bytes are no instruction. -/
inductive DecodeError where
  /-- Fewer than the two bytes an instruction has (30_encoding.md R90). -/
  | truncated
  /-- `Unknown(w)`: no row of the opcode map matches (30_encoding.md R94). -/
  | unknownOpcode (w : Word)
  deriving DecidableEq, Repr

/-! ## The fields of a word (30_encoding.md R92) -/

/-- The opcode family, `w[15:12]`. -/
def fieldFamily (w : Word) : BitVec 4 := w.extractLsb' 12 4

/-- `X`, `w[11:8]`, a register number. -/
def fieldX (w : Word) : Reg := (w.extractLsb' 8 4).toFin

/-- `Y`, `w[7:4]`, a register number. -/
def fieldY (w : Word) : Reg := (w.extractLsb' 4 4).toFin

/-- `N`, `w[3:0]`. -/
def fieldN (w : Word) : BitVec 4 := w.extractLsb' 0 4

/-- `NN`, `w[7:0]`. -/
def fieldNN (w : Word) : Byte := w.extractLsb' 0 8

/-- `NNN`, `w[11:0]`. -/
def fieldNNN (w : Word) : BitVec 12 := w.extractLsb' 0 12

/-! ## The decoder -/

/-- The opcode map of 30_encoding.md R96, in its order: each row with the instruction it builds from the word's fields. -/
def decodeRows : List (Row × (Word → Instr)) := [
  (⟨"CLS",   0x00E0, 0xFFFF⟩, fun _ => .cls),
  (⟨"RET",   0x00EE, 0xFFFF⟩, fun _ => .ret),
  (⟨"JP",    0x1000, 0xF000⟩, fun w => .jp (fieldNNN w)),
  (⟨"CALL",  0x2000, 0xF000⟩, fun w => .call (fieldNNN w)),
  (⟨"SKEQI", 0x3000, 0xF000⟩, fun w => .skeqi (fieldX w) (fieldNN w)),
  (⟨"SKNEI", 0x4000, 0xF000⟩, fun w => .sknei (fieldX w) (fieldNN w)),
  (⟨"SKEQR", 0x5000, 0xF00F⟩, fun w => .skeqr (fieldX w) (fieldY w)),
  (⟨"LDI",   0x6000, 0xF000⟩, fun w => .ldi (fieldX w) (fieldNN w)),
  (⟨"ADDI",  0x7000, 0xF000⟩, fun w => .addi (fieldX w) (fieldNN w)),
  (⟨"MOV",   0x8000, 0xF00F⟩, fun w => .mov (fieldX w) (fieldY w)),
  (⟨"OR",    0x8001, 0xF00F⟩, fun w => .or (fieldX w) (fieldY w)),
  (⟨"AND",   0x8002, 0xF00F⟩, fun w => .and (fieldX w) (fieldY w)),
  (⟨"XOR",   0x8003, 0xF00F⟩, fun w => .xor (fieldX w) (fieldY w)),
  (⟨"ADD",   0x8004, 0xF00F⟩, fun w => .add (fieldX w) (fieldY w)),
  (⟨"SUB",   0x8005, 0xF00F⟩, fun w => .sub (fieldX w) (fieldY w)),
  (⟨"DRAW",  0xD000, 0xF000⟩, fun w => .draw (fieldX w) (fieldY w) (fieldN w)),
  (⟨"SKP",   0xE09E, 0xF0FF⟩, fun w => .skp (fieldX w)),
  (⟨"SKNP",  0xE0A1, 0xF0FF⟩, fun w => .sknp (fieldX w))]

/-- The rows alone, for the checks of WellFormed. -/
def opcodeTable : List Row := decodeRows.map (·.1)

/-- Decoding a word: the instruction of the first row that matches, else `Unknown(w)` (30_encoding.md R94). -/
def decodeWord (w : Word) : Except DecodeError Instr :=
  match decodeRows.find? (fun r => rowMatches r.1 w) with
  | some r => .ok (r.2 w)
  | none => .error (.unknownOpcode w)

/-- The byte at the lower address is bits 15 to 8 of the word (20_memory.md R63). -/
def joinBytes (hi lo : Byte) : Word := hi ++ lo

/-- Decoding bytes, the first at the lowest address: an instruction is its first two bytes (30_encoding.md R90). -/
def decode : List Byte → Except DecodeError Instr
  | hi :: lo :: _ => decodeWord (joinBytes hi lo)
  | _ => .error .truncated

/-- The source's own procedure (30_encoding.md R94, R95, R97): dispatch on the family, then on `N`, `NN` or the whole
word. The machine uses `decodeWord`; that the two agree is a statement. -/
def decodeByFamily (w : Word) : Except DecodeError Instr :=
  match fieldFamily w with
  | 0x0#4 =>
    if w = 0x00E0 then .ok .cls else if w = 0x00EE then .ok .ret else .error (.unknownOpcode w)
  | 0x1#4 => .ok (.jp (fieldNNN w))
  | 0x2#4 => .ok (.call (fieldNNN w))
  | 0x3#4 => .ok (.skeqi (fieldX w) (fieldNN w))
  | 0x4#4 => .ok (.sknei (fieldX w) (fieldNN w))
  | 0x5#4 => if fieldN w = 0 then .ok (.skeqr (fieldX w) (fieldY w)) else .error (.unknownOpcode w)
  | 0x6#4 => .ok (.ldi (fieldX w) (fieldNN w))
  | 0x7#4 => .ok (.addi (fieldX w) (fieldNN w))
  | 0x8#4 =>
    match fieldN w with
    | 0x0#4 => .ok (.mov (fieldX w) (fieldY w))
    | 0x1#4 => .ok (.or (fieldX w) (fieldY w))
    | 0x2#4 => .ok (.and (fieldX w) (fieldY w))
    | 0x3#4 => .ok (.xor (fieldX w) (fieldY w))
    | 0x4#4 => .ok (.add (fieldX w) (fieldY w))
    | 0x5#4 => .ok (.sub (fieldX w) (fieldY w))
    | _ => .error (.unknownOpcode w)
  | 0xD#4 => .ok (.draw (fieldX w) (fieldY w) (fieldN w))
  | 0xE#4 =>
    if fieldNN w = 0x9E then .ok (.skp (fieldX w))
    else if fieldNN w = 0xA1 then .ok (.sknp (fieldX w))
    else .error (.unknownOpcode w)
  | _ => .error (.unknownOpcode w)

/-! ## The encoder, from the formats of 30_encoding.md R91 -/

/-- Format `A`: family and `NNN`. -/
def formatA (family : BitVec 4) (nnn : BitVec 12) : Word := family ++ nnn

/-- Format `XI` (and `XF`, whose low byte is a fixed function byte): family, `X`, `NN`. -/
def formatXI (family : BitVec 4) (x : Reg) (nn : Byte) : Word := family ++ (BitVec.ofFin x : BitVec 4) ++ nn

/-- Format `XYN` (and `XY`, whose low nibble is a fixed function nibble): family, `X`, `Y`, `N`. -/
def formatXYN (family : BitVec 4) (x y : Reg) (n : BitVec 4) : Word :=
  family ++ (BitVec.ofFin x : BitVec 4) ++ (BitVec.ofFin y : BitVec 4) ++ n

/-- The word of an instruction (30_encoding.md R91, R96). -/
def encode : Instr → Word
  | .cls => 0x00E0
  | .ret => 0x00EE
  | .jp nnn => formatA 0x1 nnn
  | .call nnn => formatA 0x2 nnn
  | .skeqi x nn => formatXI 0x3 x nn
  | .sknei x nn => formatXI 0x4 x nn
  | .skeqr x y => formatXYN 0x5 x y 0x0
  | .ldi x nn => formatXI 0x6 x nn
  | .addi x nn => formatXI 0x7 x nn
  | .mov x y => formatXYN 0x8 x y 0x0
  | .or x y => formatXYN 0x8 x y 0x1
  | .and x y => formatXYN 0x8 x y 0x2
  | .xor x y => formatXYN 0x8 x y 0x3
  | .add x y => formatXYN 0x8 x y 0x4
  | .sub x y => formatXYN 0x8 x y 0x5
  | .draw x y n => formatXYN 0xD x y n
  | .skp x => formatXI 0xE x 0x9E
  | .sknp x => formatXI 0xE x 0xA1

/-- The family nibble an instruction's word has (30_encoding.md R97). -/
def family : Instr → BitVec 4
  | .cls | .ret => 0x0
  | .jp _ => 0x1
  | .call _ => 0x2
  | .skeqi _ _ => 0x3
  | .sknei _ _ => 0x4
  | .skeqr _ _ => 0x5
  | .ldi _ _ => 0x6
  | .addi _ _ => 0x7
  | .mov _ _ | .or _ _ | .and _ _ | .xor _ _ | .add _ _ | .sub _ _ => 0x8
  | .draw _ _ _ => 0xD
  | .skp _ | .sknp _ => 0xE

/-! ## The host's view -/

/-- The two bytes of a word as memory holds them, the high byte at the lower address (20_memory.md R63). -/
def wordBytes (w : Word) : List Byte := [w.extractLsb' 8 8, w.extractLsb' 0 8]

/-- The word the opcode table numbers `w` with `nbits` given bits; bits above `nbits` are 0 (log 27). -/
def tableWord (nbits w : Nat) : Word := BitVec.ofNat 16 (w % 2 ^ nbits)

/-- What the decoder reads from the bytes of that word. -/
def decodeTableWord (nbits w : Nat) : Option Instr :=
  match decode (wordBytes (tableWord nbits w)) with
  | .ok i => some i
  | .error _ => none

end Sys2Proof
end

