-- ==== Sys2Proof/Machine/State.lean ====
section
/-! DEFINITION. The machine's state as plain data, its faults and refusals, and the state after reset. -/

namespace Sys2Proof.Machine

/-- The 64 x 32 grid of pixels: `fb[x][y]` is the pixel in column `x`, row `y`, as 10_state.md R29 writes `FB[x][y]`
(log 17). -/
abbrev Framebuffer := Vector (Vector Bool Config.fbH) Config.fbW

/-- A framebuffer with every pixel 0. -/
def blankScreen : Framebuffer := Vector.replicate Config.fbW (Vector.replicate Config.fbH false)

/-- Memory: the bytes that differ from what an unlisted address reads as, by address (Machine/Memory.lean). -/
abbrev Memory := List Host.Cell

/-- The complete architectural state of the core (10_state.md R20). -/
structure State where
  /-- `V0..VF` (10_state.md R21). -/
  v   : Vector Byte Config.nreg
  /-- The index register `I`, all 16 bits stored (10_state.md R23). -/
  i   : Word
  /-- The program counter, all 16 bits stored (10_state.md R24). -/
  pc  : Word
  /-- The number of call-stack entries in use (10_state.md R25). -/
  sp  : Byte
  /-- The call stack (10_state.md R26). -/
  stk : Vector Word Config.stackDepth
  /-- `delay_timer` (10_state.md R27). -/
  dt  : Byte
  /-- `sound_timer` (10_state.md R28). -/
  st  : Byte
  /-- The framebuffer (10_state.md R29). -/
  fb  : Framebuffer
  /-- `needs_redraw` (10_state.md R30). -/
  nr  : Bool
  /-- The input latch, true for pressed (10_state.md R31). -/
  key : Vector Bool Config.nkeys
  /-- Memory (10_state.md R32). -/
  mem : Memory
  deriving DecidableEq, Repr

/-- The machine right after a successful `load` of the empty image (10_state.md R35, 70_reset_and_hazards.md R240;
log 1, log 2, log 3): memory holds the font and zeroes, which is what it reads as with nothing listed. -/
def State.reset : State where
  v   := Vector.replicate Config.nreg 0
  i   := 0
  pc  := BitVec.ofNat 16 Config.progBase
  sp  := 0
  stk := Vector.replicate Config.stackDepth 0
  dt  := 0
  st  := 0
  fb  := blankScreen
  nr  := false
  key := Vector.replicate Config.nkeys false
  mem := []

/-- The five error kinds with their `info` (60_exceptions.md R200; log 14). Each is the spec's own and safe: the
machine stops where the hardware reports the same fault to its caller. -/
inductive Fault where
  /-- Raised by the fetch and by `DRAW` for the lowest address outside `[0, SIZE)` (safe: the spec's own fault). -/
  | outOfBoundsAccess (addr : Nat)
  /-- Raised by `CALL` with 16 entries in use (safe: the spec's own fault). -/
  | stackOverflow
  /-- Raised by `RET` with no entry in use (safe: the spec's own fault). -/
  | stackUnderflow
  /-- Raised by `step` for a reserved word `w` fetched from `pc` (safe: the spec's own fault). -/
  | unknownOpcode (w pc : Word)
  /-- Raised by `load` for an image of `len` bytes, more than memory holds (safe: the spec's own fault). -/
  | programTooLarge (len : Nat)
  deriving DecidableEq, Repr

/-- The numeric code of each kind; 0 is `Ok` (60_exceptions.md R200, D11). -/
def Fault.code : Fault → Nat
  | .outOfBoundsAccess _ => 1
  | .stackOverflow => 2
  | .stackUnderflow => 3
  | .unknownOpcode _ _ => 4
  | .programTooLarge _ => 5

/-- Where the model gives no meaning. -/
inductive Refusal where
  /-- Raised by an arm of `exec` whose instruction has no meaning yet (safe: the machine stops). No arm does now. -/
  | notModelled (mnemonic : String)
  /-- Raised by `RET` with `SP` in 17..255, which no run reaches and where `STK[SP-1]` does not exist
  (safe: the machine stops; 10_state.md R25; log 8). -/
  | stackPointerBeyondStack
  /-- Raised by every host operation but `load` before the first successful `load`
  (safe: the machine stops; 70_reset_and_hazards.md R245; log 15). -/
  | beforeLoad
  /-- Raised by `debug_write` for a value outside the item's width, an `SP` above 16, a memory byte or a key
  (safe: the spec's own refusal, with no effect; 60_exceptions.md R227; log 16). -/
  | debugWriteRefused
  deriving DecidableEq, Repr

/-- The outcome of one step or of one meaning. -/
abbrev Result := Host.Outcome State Fault Refusal

end Sys2Proof.Machine
end

