-- ==== Sys2Proof/Machine/Memory.lean ====
section
/-! DEFINITION. Memory as bytes by address, in one canonical form, and the two access primitives (20_memory.md R60 to
R67). An address is a natural number and is never reduced (R60). -/

namespace Sys2Proof.Machine

/-- What an unlisted address reads as: the font in its region, 0x00 elsewhere, which is what memory outside the image
holds after `load` (10_state.md R35, 20_memory.md R61; log 3). -/
def unlistedByte (a : Nat) : Byte :=
  if Config.fontBase ≤ a then Config.fontTable.getD (a - Config.fontBase) 0 else 0

/-- `MEM[a]`, with no bound check. -/
def byteAt : Memory → Nat → Byte
  | [], a => unlistedByte a
  | (k, b) :: m, a => if a = k then b else byteAt m a

/-- `MEM[a] <- b`, with no bound check: keeps the addresses rising and lists no byte equal to the unlisted one. -/
def putByte : Memory → Nat → Byte → Memory
  | [], a, b => if b = unlistedByte a then [] else [(a, b)]
  | (k, c) :: m, a, b =>
    if a < k then (if b = unlistedByte a then (k, c) :: m else (a, b) :: (k, c) :: m)
    else if a = k then (if b = unlistedByte a then m else (a, b) :: m)
    else (k, c) :: putByte m a b

/-- The canonical form from address `lo` up: strictly rising addresses below `SIZE`, no byte equal to the unlisted one. -/
def memWfFrom : Nat → Memory → Bool
  | _, [] => true
  | lo, (a, b) :: m =>
    decide (lo ≤ a) && decide (a < Config.memSize) && b != unlistedByte a && memWfFrom (a + 1) m

/-- The canonical form of memory. -/
def Memory.wf (m : Memory) : Bool := memWfFrom 0 m

/-- `MemRead(addr, 1)` (20_memory.md R62). -/
def memRead (m : Memory) (a : Nat) : Except Fault Byte :=
  if Config.memSize ≤ a then .error (.outOfBoundsAccess a) else .ok (byteAt m a)

/-- `MemWrite(addr, 1, v)` (20_memory.md R62); used by `load` only. -/
def memWrite (m : Memory) (a : Nat) (b : Byte) : Except Fault Memory :=
  if Config.memSize ≤ a then .error (.outOfBoundsAccess a) else .ok (putByte m a b)

/-- Bytes written one after the other from address `a` up, those at `SIZE` and above left out (log 27). The highest
address is written first, so that each write goes in front of the list. -/
def putBytes (m : Memory) (a : Nat) : List Byte → Memory
  | [] => m
  | b :: bs => if Config.memSize ≤ a then m else putByte (putBytes m (a + 1) bs) a b

end Sys2Proof.Machine
end

