-- ==== Sys2Proof/Machine/Ops.lean ====
section
/-! DEFINITION. The named operations over the state: registers, the PC sequencer, the call stack, the framebuffer and
the fetch. The machine has no trap (60_exceptions.md R203): a fault is an outcome and writes nothing, so taking one and
returning from one touch no state. -/

namespace Sys2Proof.Machine

/-! ## Single-field writes -/

/-- `V[x] <- b` (00_scope.md R9). -/
def State.writeV (s : State) (x : Reg) (b : Byte) : State := { s with v := s.v.set x b }

/-- `I <- a`; the debug port only (10_state.md R23). -/
def State.setI (s : State) (a : Word) : State := { s with i := a }

/-- `PC <- a` (10_state.md R24). -/
def State.setPc (s : State) (a : Word) : State := { s with pc := a }

/-- `SP <- n` (10_state.md R25). -/
def State.setSp (s : State) (n : Byte) : State := { s with sp := n }

/-- `STK[k] <- a` (10_state.md R26). -/
def State.writeStk (s : State) (k : Fin 16) (a : Word) : State := { s with stk := s.stk.set k a }

/-- `DT <- n` (10_state.md R27). -/
def State.setDt (s : State) (n : Byte) : State := { s with dt := n }

/-- `ST <- n` (10_state.md R28). -/
def State.setSt (s : State) (n : Byte) : State := { s with st := n }

/-- The whole framebuffer replaced (10_state.md R29). -/
def State.setFb (s : State) (fb : Framebuffer) : State := { s with fb := fb }

/-- `NR <- b` (10_state.md R30). -/
def State.setNr (s : State) (b : Bool) : State := { s with nr := b }

/-- `KEY[k] <- b` (10_state.md R31). -/
def State.writeKey (s : State) (k : Fin 16) (b : Bool) : State := { s with key := s.key.set k b }

/-- Memory replaced (10_state.md R32); `load` and the host's placing of a word only. -/
def State.setMem (s : State) (m : Memory) : State := { s with mem := m }

/-! ## Reads -/

/-- `V[x]` (00_scope.md R9). -/
def State.readV (s : State) (x : Reg) : Byte := s.v[x]

/-- `STK[k]` (00_scope.md R9). -/
def State.readStk (s : State) (k : Fin 16) : Word := s.stk[k]

/-- `KEY[k]` (00_scope.md R9). -/
def State.readKey (s : State) (k : Fin 16) : Bool := s.key[k]

/-- `MEM[a]`, for the address of any byte of memory. -/
def State.readByte (s : State) (a : Nat) : Byte := byteAt s.mem a

/-! ## The PC sequencer (40_step_cycle.md R124) -/

/-- The address of the next instruction, `PC + 2`. The 16-bit sum is exact whenever the instruction was fetched (log 9). -/
def State.nextPc (s : State) : Word := s.pc + BitVec.ofNat 16 Config.ilen

/-- The default advance. -/
def State.advance (s : State) : State := s.setPc s.nextPc

/-- A conditional skip: `PC + 4` if the condition holds, else `PC + 2`. -/
def State.skipIf (s : State) (c : Bool) : State :=
  s.setPc (s.pc + BitVec.ofNat 16 (if c then 2 * Config.ilen else Config.ilen))

/-- Jump and call targets: `PC <- zext_16(NNN)` (30_encoding.md R93). -/
def State.jump (s : State) (nnn : BitVec 12) : State := s.setPc (nnn.setWidth 16)

/-! ## The call stack (10_state.md R25, R26) -/

/-- Pushes a return address: StackOverflow with 16 entries in use, detected before any write (41_control_flow.md R142). -/
def pushReturn (s : State) (a : Word) : Result :=
  if h : s.sp.toNat < Config.stackDepth then .next ((s.writeStk ⟨s.sp.toNat, h⟩ a).setSp (s.sp + 1)) else .fault .stackOverflow

/-- Pops a return address into `PC`: StackUnderflow with no entry in use, detected before any write; the popped entry
keeps its value (41_control_flow.md R140). With `SP` above 16, which no run reaches, there is no entry to pop (log 8). -/
def popReturn (s : State) : Result :=
  if s.sp = 0 then .fault .stackUnderflow
  else if h : s.sp.toNat - 1 < Config.stackDepth then .next ((s.setSp (s.sp - 1)).setPc (s.readStk ⟨s.sp.toNat - 1, h⟩))
  else .refused .stackPointerBeyondStack

/-! ## Two writes to the register file (40_step_cycle.md R126) -/

/-- Writes the flag to `VF` and the result to `V[x]` in the given order; with `x` = F the later write wins. -/
def State.writeFlagAndResult (s : State) (order : Config.FlagWriteOrder) (x : Reg) (flag result : Byte) : State :=
  match order with
  | .flagFirst => (s.writeV regF flag).writeV x result
  | .flagLast => (s.writeV x result).writeV regF flag

/-! ## The framebuffer (10_state.md R29) -/

/-- `FB[x][y]`. -/
def pixel (fb : Framebuffer) (x : Fin 64) (y : Fin 32) : Bool := fb[x][y]

/-- `FB[x][y] <- b`. -/
def setPixel (fb : Framebuffer) (x : Fin 64) (y : Fin 32) (b : Bool) : Framebuffer := fb.set x (fb[x].set y b)

/-! ## Drawing (44_display.md R181) -/

/-- Screen column of sprite bit `b`: `(x0 + b) mod 64`. -/
def screenX (x0 : Byte) (b : Nat) : Fin 64 := Fin.ofNat Config.fbW (x0.toNat + b)

/-- Screen row of sprite row `r`: `(y0 + r) mod 32`. -/
def screenY (y0 : Byte) (r : Nat) : Fin 32 := Fin.ofNat Config.fbH (y0.toNat + r)

/-- Pixel `b` of a sprite row counted from the left: bit `7 - b` of its byte. -/
def spriteBit (row : Byte) (b : Nat) : Bool := row.getLsbD (7 - b)

/-- One sprite bit: a 1 toggles its pixel, and collides if the pixel was 1; a 0 leaves its pixel alone. The pair is the
framebuffer and whether any pixel has collided so far. -/
def drawBit (x0 y0 : Byte) (r : Nat) (row : Byte) (p : Framebuffer × Bool) (b : Nat) : Framebuffer × Bool :=
  if spriteBit row b then
    (setPixel p.1 (screenX x0 b) (screenY y0 r) (!pixel p.1 (screenX x0 b) (screenY y0 r)),
      p.2 || pixel p.1 (screenX x0 b) (screenY y0 r))
  else p

/-- One sprite row, leftmost bit first. -/
def drawRow (x0 y0 : Byte) (r : Nat) (row : Byte) (p : Framebuffer × Bool) : Framebuffer × Bool :=
  (List.range 8).foldl (drawBit x0 y0 r row) p

/-- The sprite rows from row `r` down, top row first. -/
def drawRows (x0 y0 : Byte) : Nat → List Byte → Framebuffer × Bool → Framebuffer × Bool
  | _, [], p => p
  | r, row :: rows, p => drawRows x0 y0 (r + 1) rows (drawRow x0 y0 r row p)

/-! ## The fetch (40_step_cycle.md R121) -/

/-- The word at `PC`, big-endian; OutOfBoundsAccess with the lowest address outside memory if `PC + 1` is. -/
def fetch (s : State) : Except Fault Word :=
  if Config.memSize ≤ s.pc.toNat + 1 then
    .error (.outOfBoundsAccess (if Config.memSize ≤ s.pc.toNat then s.pc.toNat else s.pc.toNat + 1))
  else .ok (joinBytes (s.readByte s.pc.toNat) (s.readByte (s.pc.toNat + 1)))

end Sys2Proof.Machine
end

