-- ==== Sys2Proof/Machine/Cycle.lean ====
section
/-! DEFINITION. The phases of a step around the execute phase, and the placing of a word in memory. -/

namespace Sys2Proof.Machine

/-- The phases of a step in order, the first that fails ending it: the fetch bound, decode, then the execute phase
`run` with the instruction's own condition (40_step_cycle.md R120, R129, 60_exceptions.md R202). An unknown opcode is
reported with its word and the `PC` it was fetched from under either policy (40_step_cycle.md R128). -/
def stepCycle (run : Instr → State → Result) (s : State) : Result :=
  match fetch s with
  | .error f => .fault f
  | .ok w =>
    match decodeWord w with
    | .error _ => .fault (.unknownOpcode w s.pc)
    | .ok i => run i s

/-- Memory with the opcode table's word `w` of `nbits` bits at `a`, high byte first (20_memory.md R63; log 27). -/
def withWordAt (m : Memory) (a nbits w : Nat) : Memory := putBytes m a (wordBytes (tableWord nbits w))

end Sys2Proof.Machine
end

