-- ==== Sys2Proof/Machine/Flags.lean ====
section
/-! DEFINITION. The three flag values written to `VF`, each the full byte 0x00 or 0x01 (10_state.md R22). -/

namespace Sys2Proof.Machine

/-- The full byte a flag is stored as (10_state.md R22). -/
def flagByte (c : Bool) : Byte := if c then 1 else 0

/-- Carry of `ADD`: the unsigned sum exceeds 255; no carry in (43_load_and_alu.md R166). -/
def carryFlag (a b : Byte) : Byte := flagByte (decide (a.toNat + b.toNat > 255))

/-- No borrow of `SUB`: `a >= b`, unsigned; no borrow in (43_load_and_alu.md R167). -/
def noBorrowFlag (a b : Byte) : Byte := flagByte (decide (a.toNat ≥ b.toNat))

/-- Collision of `DRAW`: at least one pixel went from 1 to 0 (44_display.md R181). -/
def collisionFlag (collided : Bool) : Byte := flagByte collided

end Sys2Proof.Machine
end

