-- ==== Sys2Proof/Machine/Alu.lean ====
section
/-! DEFINITION. Register load and ALU (43_load_and_alu.md R160 to R168). All arithmetic is on unsigned bytes and wraps
mod 256; operands are latched before any write (40_step_cycle.md R125); none can fault; all advance `PC` by 2. -/

namespace Sys2Proof.Machine

/-- A result written to `V[x]` and the default advance: the shape of the six instructions that write no flag. -/
def State.loadV (s : State) (x : Reg) (b : Byte) : State := (s.writeV x b).advance

/-- `LDI Vx, nn` (43_load_and_alu.md R160). -/
def execLdi (x : Reg) (nn : Byte) (s : State) : Result := .next (s.loadV x nn)

/-- `ADDI Vx, nn`: wraps, records no carry (43_load_and_alu.md R161). -/
def execAddi (x : Reg) (nn : Byte) (s : State) : Result := .next (s.loadV x (s.readV x + nn))

/-- `MOV Vx, Vy` (43_load_and_alu.md R162). -/
def execMov (x y : Reg) (s : State) : Result := .next (s.loadV x (s.readV y))

/-- `OR Vx, Vy` (43_load_and_alu.md R163). -/
def execOr (x y : Reg) (s : State) : Result := .next (s.loadV x (s.readV x ||| s.readV y))

/-- `AND Vx, Vy` (43_load_and_alu.md R164). -/
def execAnd (x y : Reg) (s : State) : Result := .next (s.loadV x (s.readV x &&& s.readV y))

/-- `XOR Vx, Vy` (43_load_and_alu.md R165). -/
def execXor (x y : Reg) (s : State) : Result := .next (s.loadV x (s.readV x ^^^ s.readV y))

/-- `ADD Vx, Vy`: the carry to `VF`, the sum to `V[x]`, both of the latched operands (43_load_and_alu.md R166; log 6). -/
def execAdd (x y : Reg) (s : State) : Result :=
  let a := s.readV x
  let b := s.readV y
  .next (s.writeFlagAndResult Config.flagWriteOrder x (carryFlag a b) (a + b)).advance

/-- `SUB Vx, Vy`: the no-borrow flag to `VF`, the difference to `V[x]`, both of the latched operands
(43_load_and_alu.md R167; log 6). -/
def execSub (x y : Reg) (s : State) : Result :=
  let a := s.readV x
  let b := s.readV y
  .next (s.writeFlagAndResult Config.flagWriteOrder x (noBorrowFlag a b) (a - b)).advance

end Sys2Proof.Machine
end

