-- ==== Sys2Proof/Machine/Control.lean ====
section
/-! DEFINITION. Control transfer: `RET`, `JP`, `CALL` (41_control_flow.md R140 to R144). -/

namespace Sys2Proof.Machine

/-- `RET`: the popped entry is the new `PC`, with nothing added (41_control_flow.md R140, 90_conflicts.md C1). -/
def execRet (s : State) : Result := popReturn s

/-- `JP nnn` (41_control_flow.md R141). -/
def execJp (nnn : BitVec 12) (s : State) : Result := .next (s.jump nnn)

/-- `CALL nnn`: pushes `PC + 2`, then jumps (41_control_flow.md R142). -/
def execCall (nnn : BitVec 12) (s : State) : Result :=
  match pushReturn s s.nextPc with
  | .next t => .next (t.jump nnn)
  | .fault f => .fault f
  | .refused r => .refused r

end Sys2Proof.Machine
end

