-- ==== Sys2Proof/Machine/Operands.lean ====
section
/-! DEFINITION. The operand forms: registers and immediates are used as they stand (30_encoding.md R93); this file holds
the two forms that compute something, the key id of `SKP` and `SKNP` and the sprite bytes of `DRAW`. -/

namespace Sys2Proof.Machine

/-- The key a register names: `V[X][3:0]`, bits 7 to 4 ignored (45_input_skips.md R190, D13; log 10). -/
def keyId (b : Byte) : Fin 16 := (b.extractLsb' 0 4).toFin

/-- The key named by `V[x]`, as the latch stands at this step. -/
def State.keyPressed (s : State) (x : Reg) : Bool := s.readKey (keyId (s.readV x))

/-- The fault of a sprite of `n` rows at `base`, if any of its addresses is outside memory: the lowest such address
(44_display.md R181, D11, D15). No row, no address. -/
def spriteFault (base n : Nat) : Option Fault :=
  if 1 ≤ n ∧ Config.memSize ≤ base + n - 1 then
    some (.outOfBoundsAccess (if Config.memSize ≤ base then base else Config.memSize))
  else none

/-- The sprite rows `MEM[base]` to `MEM[base + n - 1]`, top row first. -/
def spriteRows (s : State) (base n : Nat) : List Byte := (List.range n).map fun r => s.readByte (base + r)

end Sys2Proof.Machine
end

