-- ==== Sys2Proof/Machine/Display.lean ====
section
/-! DEFINITION. The display: `CLS` and `DRAW` (44_display.md R180 to R183). -/

namespace Sys2Proof.Machine

/-- `CLS` (44_display.md R180). -/
def execCls (s : State) : Result := .next ((s.setFb blankScreen).setNr true).advance

/-- `DRAW Vx, Vy, n`: all sprite addresses are checked before any write; `VF` and `NR` are written on every `DRAW` that
does not fault, `n` = 0 included (44_display.md R181, 90_conflicts.md C2, C7; log 12). -/
def execDraw (x y : Reg) (n : BitVec 4) (s : State) : Result :=
  let x0 := s.readV x
  let y0 := s.readV y
  match spriteFault s.i.toNat n.toNat with
  | some f => .fault f
  | none =>
    let drawn := drawRows x0 y0 0 (spriteRows s s.i.toNat n.toNat) (s.fb, false)
    .next (((s.setFb drawn.1).writeV regF (collisionFlag drawn.2)).setNr true).advance

end Sys2Proof.Machine
end

