-- ==== Sys2Proof/Machine/Skips.lean ====
section
/-! DEFINITION. Conditional skips: on registers (42_conditional_skips.md R150 to R152) and on the key latch
(45_input_skips.md R190, R191). Each writes `PC` only. -/

namespace Sys2Proof.Machine

/-- `SKEQI Vx, nn` (42_conditional_skips.md R150). -/
def execSkeqi (x : Reg) (nn : Byte) (s : State) : Result := .next (s.skipIf (s.readV x == nn))

/-- `SKNEI Vx, nn` (42_conditional_skips.md R151). -/
def execSknei (x : Reg) (nn : Byte) (s : State) : Result := .next (s.skipIf (s.readV x != nn))

/-- `SKEQR Vx, Vy` (42_conditional_skips.md R152). -/
def execSkeqr (x y : Reg) (s : State) : Result := .next (s.skipIf (s.readV x == s.readV y))

/-- `SKP Vx` (45_input_skips.md R190). -/
def execSkp (x : Reg) (s : State) : Result := .next (s.skipIf (s.keyPressed x))

/-- `SKNP Vx` (45_input_skips.md R191). -/
def execSknp (x : Reg) (s : State) : Result := .next (s.skipIf (!s.keyPressed x))

end Sys2Proof.Machine
end

