-- ==== Sys2Proof/Machine/Step.lean ====
section
/-! DEFINITION. One step of the core, and the placing of an instruction word where a step fetches. -/

namespace Sys2Proof.Machine

/-- `step`: fetch, decode, execute (40_step_cycle.md R120). What a fault leaves behind is in Machine/HostOps.lean. -/
def step : State → Host.Outcome State Fault Refusal := stepCycle exec

/-- `s` with an instruction word stored, high byte first, where `step` fetches next (log 1, log 27). -/
def State.withFetchWord (s : State) (nbits w : Nat) : State := s.setMem (withWordAt s.mem s.pc.toNat nbits w)

end Sys2Proof.Machine
end

