-- ==== Sys2Proof/Machine/HostOps.lean ====
section
/-! DEFINITION. The operations the host can invoke (60_exceptions.md R214): one at a time, each atomic (R215; log 19). -/

namespace Sys2Proof.Machine

/-- The machine before and after its first successful `load`: the state before it is unspecified (70_reset_and_hazards.md
R242, R245; log 15). -/
inductive Boot where
  | constructed
  | loaded (s : State)
  deriving DecidableEq, Repr

/-- The items of state the debug port names: all of 10_state.md R20. -/
inductive Item where
  | v (x : Reg)
  | i
  | pc
  | sp
  | stk (k : Fin 16)
  | dt
  | st
  | fb (x : Fin 64) (y : Fin 32)
  | nr
  | key (k : Fin 16)
  | mem (a : Fin 4096)
  deriving DecidableEq, Repr

/-- The operations of 60_exceptions.md R214. -/
inductive Op where
  | load (image : List Byte)
  | step
  | tickTimers
  | setKey (id : Fin 16) (pressed : Bool)
  | readFrame
  | frameConsumed
  | soundActive
  | debugRead (item : Item)
  | debugWrite (item : Item) (n : Nat)
  deriving DecidableEq, Repr

/-- What an operation returns to the host (00_scope.md R10, 60_exceptions.md R201, R214). -/
inductive Reply where
  /-- `Ok`. -/
  | ok
  /-- `Fault(kind, info)`. -/
  | fault (f : Fault)
  /-- The operation has no meaning here, or the port refused the value; nothing changed. -/
  | refused (r : Refusal)
  /-- The pixels in the order of their linear index, and `NR`. -/
  | frame (pixels : List Bool) (nr : Bool)
  /-- The level of `sound_active`. -/
  | level (active : Bool)
  /-- The value of an item of state. -/
  | value (n : Nat)
  deriving DecidableEq, Repr

/-! ## `load` (70_reset_and_hazards.md R240 to R242) -/

/-- The state a `load` sets: the size is checked first; then everything is reset, font included, and the image copied. -/
def loadImage (image : List Byte) : Except Fault State :=
  if Config.memSize - Config.progBase < image.length then .error (.programTooLarge image.length)
  else .ok (State.reset.setMem (putBytes State.reset.mem Config.progBase image))

/-! ## `step` as an operation (40_step_cycle.md R120, R127, R128) -/

/-- The state after a faulting step: unchanged, but for an unknown opcode under `skip`, which moves `PC` past the word
(log 7, log 13). -/
def stateAfterFault (p : Config.UnknownPolicy) (f : Fault) (s : State) : State :=
  match f, p with
  | .unknownOpcode _ _, .skip => s.advance
  | _, _ => s

/-- `step` with its outcome and the state it leaves. -/
def stepOp (p : Config.UnknownPolicy) (s : State) : Reply × State :=
  match step s with
  | .next t => (.ok, t)
  | .fault f => (.fault f, stateAfterFault p f s)
  | .refused r => (.refused r, s)

/-! ## Timers, keys, frame, sound -/

/-- A timer's decrement: never below 0 (60_exceptions.md R210). -/
def tickDown (n : Byte) : Byte := if n = 0 then 0 else n - 1

/-- `tick_timers()`: both timers in the same tick, independently (60_exceptions.md R210). -/
def tickTimers (s : State) : State := (s.setDt (tickDown s.dt)).setSt (tickDown s.st)

/-- `set_key(id, pressed)` (60_exceptions.md R218). -/
def setKey (id : Fin 16) (pressed : Bool) (s : State) : State := s.writeKey id pressed

/-- The pixel of a linear index, `y * 64 + x` for `FB[x][y]` (10_state.md R29, D16; log 17). -/
def linearPixel (fb : Framebuffer) (n : Nat) : Bool :=
  pixel fb (Fin.ofNat Config.fbW n) (Fin.ofNat Config.fbH (n / Config.fbW))

/-- The 2048 pixels of `read_frame()` in the order of their linear index (60_exceptions.md R220). -/
def framePixels (s : State) : List Bool := (List.range (Config.fbW * Config.fbH)).map (linearPixel s.fb)

/-- `frame_consumed()`: `NR <- 0` (60_exceptions.md R221). -/
def frameConsumed (s : State) : State := s.setNr false

/-- `sound_active`: `ST > 0` (60_exceptions.md R224). -/
def soundActive (s : State) : Bool := decide (0 < s.st.toNat)

/-! ## The debug port (60_exceptions.md R227, D20; log 16) -/

/-- `debug_read`: the value of an item; a bit reads as 0 or 1. -/
def debugRead (item : Item) (s : State) : Nat :=
  match item with
  | .v x => (s.readV x).toNat
  | .i => s.i.toNat
  | .pc => s.pc.toNat
  | .sp => s.sp.toNat
  | .stk k => (s.readStk k).toNat
  | .dt => s.dt.toNat
  | .st => s.st.toNat
  | .fb x y => (pixel s.fb x y).toNat
  | .nr => s.nr.toNat
  | .key k => (s.readKey k).toNat
  | .mem a => (s.readByte a).toNat

/-- The largest value `debug_write` takes for an item: its width, and 16 for `SP`; none for memory and the keys. -/
def debugMax : Item → Option Nat
  | .v _ => some (2 ^ Config.xlen - 1)
  | .dt | .st => some 0xFF
  | .i | .pc | .stk _ => some 0xFFFF
  | .sp => some Config.stackDepth
  | .fb _ _ | .nr => some 1
  | .key _ | .mem _ => none

/-- The write of an accepted value. Memory and the keys are not written. -/
def debugStore (item : Item) (n : Nat) (s : State) : State :=
  match item with
  | .v x => s.writeV x (BitVec.ofNat 8 n)
  | .i => s.setI (BitVec.ofNat 16 n)
  | .pc => s.setPc (BitVec.ofNat 16 n)
  | .sp => s.setSp (BitVec.ofNat 8 n)
  | .stk k => s.writeStk k (BitVec.ofNat 16 n)
  | .dt => s.setDt (BitVec.ofNat 8 n)
  | .st => s.setSt (BitVec.ofNat 8 n)
  | .fb x y => s.setFb (setPixel s.fb x y (n != 0))
  | .nr => s.setNr (n != 0)
  | .key _ => s
  | .mem _ => s

/-- `debug_write`: refuses, with no effect, what the port does not take. -/
def debugWrite (item : Item) (n : Nat) (s : State) : Except Refusal State :=
  match debugMax item with
  | some max => if n ≤ max then .ok (debugStore item n s) else .error .debugWriteRefused
  | none => .error .debugWriteRefused

/-! ## One operation -/

/-- An operation on a loaded machine: its reply and the state it leaves (60_exceptions.md R214). -/
def operateLoaded (p : Config.UnknownPolicy) (op : Op) (s : State) : Reply × State :=
  match op with
  | .load image =>
    match loadImage image with
    | .ok t => (.ok, t)
    | .error f => (.fault f, s)
  | .step => stepOp p s
  | .tickTimers => (.ok, tickTimers s)
  | .setKey id pressed => (.ok, setKey id pressed s)
  | .readFrame => (.frame (framePixels s) s.nr, s)
  | .frameConsumed => (.ok, frameConsumed s)
  | .soundActive => (.level (soundActive s), s)
  | .debugRead item => (.value (debugRead item s), s)
  | .debugWrite item n =>
    match debugWrite item n s with
    | .ok t => (.ok, t)
    | .error r => (.refused r, s)

/-- An operation on the machine: before the first successful `load` only `load` has a meaning (70_reset_and_hazards.md
R245; log 15). -/
def operate (p : Config.UnknownPolicy) (op : Op) (m : Boot) : Reply × Boot :=
  match m with
  | .loaded s => ((operateLoaded p op s).1, .loaded (operateLoaded p op s).2)
  | .constructed =>
    match op with
    | .load image =>
      match loadImage image with
      | .ok t => (.ok, .loaded t)
      | .error f => (.fault f, .constructed)
    | _ => (.refused .beforeLoad, .constructed)

/-- A sequence of operations, in the one total order of 20_memory.md R70: the replies and the machine it leaves. -/
def operateAll (p : Config.UnknownPolicy) : List Op → Boot → List Reply × Boot
  | [], m => ([], m)
  | op :: ops, m =>
    let first := operate p op m
    let rest := operateAll p ops first.2
    (first.1 :: rest.1, rest.2)

end Sys2Proof.Machine
end

