-- ==== Sys2Proof/Safety.lean ====
section
/-! DEFINITION. The terms the statements use: the invariants of 10_state.md R36, what a run without faults is, and the
frame predicates (what an instruction leaves unchanged). -/

namespace Sys2Proof.Machine

/-! ## Invariants -/

/-- The font region holds `FONT_TABLE` (10_state.md R36). -/
abbrev fontInPlace (s : State) : Prop :=
  ∀ k, k < 80 → s.readByte (Config.fontBase + k) = Config.fontTable.getD k 0

/-- The invariants of 10_state.md R36 that the types do not give, and the canonical form of memory. -/
abbrev State.Inv (s : State) : Prop := s.sp.toNat ≤ 16 ∧ Memory.wf s.mem = true ∧ fontInPlace s

/-- The invariant of the machine: that of its state, once there is one. -/
def Boot.Inv : Boot → Prop
  | .constructed => True
  | .loaded s => s.Inv

/-- What holds of a machine started by `load` while the debug port is not used: `I` and the timers are 0, the bytes a
sprite could be read from are 0x00, the screen is blank (70_reset_and_hazards.md R246, 60_exceptions.md R211). -/
abbrev State.Quiet (s : State) : Prop :=
  s.i = 0 ∧ s.dt = 0 ∧ s.st = 0 ∧ s.fb = blankScreen ∧ ∀ a, a < 15 → s.readByte a = 0

/-- `State.Quiet` of a loaded machine. -/
def Boot.Quiet : Boot → Prop
  | .constructed => True
  | .loaded s => s.Quiet

/-! ## Runs -/

/-- No operation of a run was faulted or refused: a faulted run is never final (60_exceptions.md R204). -/
def runSafe (p : Config.UnknownPolicy) (ops : List Op) (m : Boot) : Bool :=
  (operateAll p ops m).1.all fun r =>
    match r with
    | .fault _ => false
    | .refused _ => false
    | _ => true

/-- The operations a host may put between two steps of a program without presetting state (40_step_cycle.md R130). -/
abbrev hostMove (s t : State) : Prop :=
  t = tickTimers s ∨ (∃ id pressed, t = setKey id pressed s) ∨ t = frameConsumed s

/-- Steps and host operations from one state to another, more than `k` stack entries in use all along: the code between
a call made with `SP = k` and the return that pops its entry (41_control_flow.md R143). -/
inductive RunsAbove (k : Nat) : State → State → Prop where
  | here {s : State} : k < s.sp.toNat → RunsAbove k s s
  | step {s t u : State} : k < s.sp.toNat → step s = .next t → RunsAbove k t u → RunsAbove k s u
  | host {s t u : State} : k < s.sp.toNat → hostMove s t → RunsAbove k t u → RunsAbove k s u

/-- An outcome with its next state changed. -/
def mapNext (f : State → State) : Result → Result
  | .next s => .next (f s)
  | .fault r => .fault r
  | .refused r => .refused r

/-! ## The PC sequencer over the integers (40_step_cycle.md R124) -/

/-- The `PC` after an instruction that advances: over the integers, without wrap. None for `JP`, `CALL`, `RET`. -/
def advancedPc (i : Instr) (s : State) : Option Nat :=
  match i with
  | .ret | .jp _ | .call _ => none
  | .skeqi x nn => some (s.pc.toNat + if s.readV x = nn then 4 else 2)
  | .sknei x nn => some (s.pc.toNat + if s.readV x = nn then 2 else 4)
  | .skeqr x y => some (s.pc.toNat + if s.readV x = s.readV y then 4 else 2)
  | .skp x => some (s.pc.toNat + if s.keyPressed x then 4 else 2)
  | .sknp x => some (s.pc.toNat + if s.keyPressed x then 2 else 4)
  | .cls | .ldi _ _ | .addi _ _ | .mov _ _ | .or _ _ | .and _ _ | .xor _ _ | .add _ _ | .sub _ _ | .draw _ _ _ =>
    some (s.pc.toNat + 2)

/-! ## Sprites (44_display.md R181) -/

/-- The sprite of `n` rows at `I`, drawn at (`x0`, `y0`), has a 1 bit on the screen pixel (`x`, `y`). -/
abbrev spriteCovers (s : State) (x0 y0 n : Nat) (x : Fin 64) (y : Fin 32) : Prop :=
  ∃ r, r < n ∧ ∃ b, b < 8 ∧ (s.readByte (s.i.toNat + r)).getLsbD (7 - b) = true ∧
    (x0 + b) % 64 = x.val ∧ (y0 + r) % 32 = y.val

/-- All addresses of a sprite of `n` rows at `I` are inside memory; no row, no address. -/
abbrev spriteInMemory (s : State) (n : BitVec 4) : Prop := n.toNat = 0 ∨ s.i.toNat + n.toNat ≤ 4096

/-! ## Frames -/

/-- Every general register outside `written` is unchanged. -/
abbrev sameRegsExcept (written : List Reg) (s t : State) : Prop := ∀ z : Reg, z ∉ written → t.readV z = s.readV z

/-- `SP` and every call-stack entry are unchanged. -/
abbrev sameStack (s t : State) : Prop := t.sp = s.sp ∧ ∀ k : Fin 16, t.readStk k = s.readStk k

/-- Every pixel and `NR` are unchanged. -/
abbrev sameScreen (s t : State) : Prop := (∀ x y, pixel t.fb x y = pixel s.fb x y) ∧ t.nr = s.nr

/-- Every byte of memory reads as before. -/
abbrev sameMemory (s t : State) : Prop := ∀ a : Nat, t.readByte a = s.readByte a

/-- `I`, the timers and the keys are unchanged: what no instruction writes (10_state.md R37). -/
abbrev sameUnwritten (s t : State) : Prop :=
  t.i = s.i ∧ t.dt = s.dt ∧ t.st = s.st ∧ ∀ k : Fin 16, t.readKey k = s.readKey k

/-- Everything but the general registers and `PC` is unchanged. -/
abbrev sameOutsideRegs (s t : State) : Prop :=
  sameStack s t ∧ sameScreen s t ∧ sameMemory s t ∧ sameUnwritten s t

/-- The value of the flag byte for a condition. -/
abbrev flagIs (b : Byte) (c : Prop) : Prop := (c → b = 1) ∧ (¬ c → b = 0)

end Sys2Proof.Machine
end

