-- ==== Sys2Proof/Certificates/Slice0/Obligations.lean ====
section
/-! DEFINITION. The statements for the provers. Each docstring names the rule of spec/ it formalises; "the spec's
decision D<n>" and "log <n>" mark a clause that rests on a choice and not on a rule of the source. -/

open Sys2Proof Sys2Proof.Machine

/-! ## Encoding -/

/-- Decode and encode agree: no bit of an operand is dropped (30_encoding.md R91, R92, R96). Every term of `Instr` is
well formed, so the statement covers every instruction with every operand at every value. -/
def Obligations.EncodeThenDecodeIsIdentity : Prop :=
  ∀ i : Instr, decodeWord (encode i) = .ok i

/-- Every legal word is the encoding of what it decodes to, so each instruction has exactly one word (R91, R96). -/
def Obligations.DecodeThenEncodeIsIdentity : Prop :=
  ∀ (w : Word) (i : Instr), decodeWord w = .ok i → encode i = w

/-- The decoder is total and takes the one row that matches, else it answers Unknown (R94, R96). That at most one row
matches is an inference the spec marks as derived. -/
def Obligations.DecoderTakesTheOneMatchingRow : Prop :=
  ∀ w : Word,
    (∃ r, r ∈ decodeRows ∧ rowMatches r.1 w = true ∧ (∀ q, q ∈ decodeRows → rowMatches q.1 w = true → q = r) ∧
      decodeWord w = .ok (r.2 w)) ∨
    ((∀ r, r ∈ decodeRows → rowMatches r.1 w = false) ∧ decodeWord w = .error (.unknownOpcode w))

/-- The mask-and-match decoder is the source's procedure, dispatch on the family and then on `N`, `NN` or the whole word
(R94, R95, R97). That fixed bits match exactly is the spec's decision D8 (log 22). -/
def Obligations.DecoderAgreesWithFamilyDispatch : Prop :=
  ∀ w : Word, decodeWord w = decodeByFamily w

/-- A few words written out from the encodings: the two examples of R101, one word of each format, and the reserved
word 0x0000 of R98. -/
def Obligations.SampleWordsDecode : Prop :=
  decodeWord 0x730A = .ok (.addi 3 0x0A) ∧ decodeWord 0xD015 = .ok (.draw 0 1 0x5) ∧
  decodeWord 0x00E0 = .ok .cls ∧ decodeWord 0x220A = .ok (.call 0x20A) ∧
  decodeWord 0x8235 = .ok (.sub 2 3) ∧ decodeWord 0xE0A1 = .ok (.sknp 0) ∧
  decodeWord 0x0000 = .error (.unknownOpcode 0x0000)

/-! ## Fetch and step -/

/-- The fetched word has `MEM[PC]` in bits 15 to 8 and `MEM[PC + 1]` in bits 7 to 0 (20_memory.md R63,
40_step_cycle.md R121), at an odd `PC` too (R64, the spec's decision D12, log 11). -/
def Obligations.FetchReadsBigEndianWord : Prop :=
  ∀ s : State, s.pc.toNat + 1 < 4096 →
    ∃ w, fetch s = .ok w ∧ w.extractLsb' 8 8 = s.readByte s.pc.toNat ∧ w.extractLsb' 0 8 = s.readByte (s.pc.toNat + 1)

/-- A fetch at 0xFFF or above ends the step with OutOfBoundsAccess, whatever memory holds (R121, R202). The address it
reports is the spec's decision D11 (log 14). -/
def Obligations.FetchBeyondMemoryFaults : Prop :=
  ∀ s : State, 4096 ≤ s.pc.toNat + 1 →
    step s = .fault (.outOfBoundsAccess (if 4096 ≤ s.pc.toNat then s.pc.toNat else s.pc.toNat + 1))

/-- When the bytes at the program counter decode to an instruction, a step is that instruction's execution, and nothing
around it; where that answers a next state, the host operation `step` replies `Ok` and leaves it, under either policy
(R120, R122, R123, 60_exceptions.md R214). -/
def Obligations.StepRunsDecodedInstruction : Prop :=
  ∀ (s : State) (i : Instr), s.pc.toNat + 1 < 4096 →
    decode [s.readByte s.pc.toNat, s.readByte (s.pc.toNat + 1)] = .ok i →
    step s = exec i s ∧ ∀ p t, exec i s = .next t → operateLoaded p .step s = (.ok, t)

/-- A reserved word is reported as UnknownOpcode with the word and its address under both policies; `halt` changes
nothing, `skip` moves `PC` by 2 and changes nothing else (R98, R128; the spec's decision D9, log 7). -/
def Obligations.ReservedWordIsReported : Prop :=
  ∀ (s : State) (w : Word), fetch s = .ok w → decodeWord w = .error (.unknownOpcode w) →
    step s = .fault (.unknownOpcode w s.pc) ∧
    operateLoaded .halt .step s = (.fault (.unknownOpcode w s.pc), s) ∧
    operateLoaded .skip .step s = (.fault (.unknownOpcode w s.pc), { s with pc := s.pc + 2 })

/-- An operation that faults changes no state, but for an unknown opcode under `skip` (R127, R128, R240; the spec's
decisions D9, D10, D19, log 7 and log 13). -/
def Obligations.FaultingOperationChangesNothing : Prop :=
  ∀ (p : Config.UnknownPolicy) (op : Op) (s : State) (f : Fault), (operateLoaded p op s).1 = .fault f →
    (operateLoaded p op s).2 = s ∨
    (p = .skip ∧ op = .step ∧ ∃ w, f = .unknownOpcode w s.pc ∧ (operateLoaded p op s).2 = { s with pc := s.pc + 2 })

/-- No instruction other than `RET`, `CALL`, `DRAW` has an execute-phase fault, and each of these has one condition
(60_exceptions.md R200, R202). The address `DRAW` reports is the spec's decision D11 (log 14). -/
def Obligations.OnlyRetCallDrawFault : Prop :=
  ∀ (i : Instr) (s : State) (f : Fault), exec i s = .fault f →
    (i = .ret ∧ s.sp = 0 ∧ f = .stackUnderflow) ∨
    (∃ nnn, i = .call nnn ∧ 16 ≤ s.sp.toNat ∧ f = .stackOverflow) ∨
    (∃ x y n, i = .draw x y n ∧ ¬ spriteInMemory s n ∧
      f = .outOfBoundsAccess (if 4096 ≤ s.i.toNat then s.i.toNat else 4096))

/-- In a state that meets the invariant no step is refused: the model has a meaning for all a run can reach
(10_state.md R25, R36; log 8). -/
def Obligations.InvariantStatesAreNeverRefused : Prop :=
  ∀ (s : State) (r : Refusal), s.Inv → step s ≠ .refused r

/-- The default advance and the skips add 2 or 4 over the integers: `PC` never wraps in a step (10_state.md R24,
40_step_cycle.md R124). -/
def Obligations.AdvancedPcNeverWraps : Prop :=
  ∀ (s t : State) (w : Word) (i : Instr) (n : Nat), fetch s = .ok w → decodeWord w = .ok i → step s = .next t →
    advancedPc i s = some n → t.pc.toNat = n

/-! ## Control transfer -/

/-- `RET` with no entry in use raises StackUnderflow; with `k + 1` in use it sets `PC` to entry `k`, with nothing added,
and `SP` to `k` (41_control_flow.md R140, 90_conflicts.md C1). That the popped entry keeps its value is the spec's
decision D23 (log 24). -/
def Obligations.RetPopsReturnAddress : Prop :=
  ∀ s : State,
    (s.sp = 0 → exec .ret s = .fault .stackUnderflow) ∧
    (∀ k : Fin 16, s.sp.toNat = k.val + 1 →
      ∃ t, exec .ret s = .next t ∧ t.pc = s.readStk k ∧ t.sp.toNat = k.val ∧ (∀ j : Fin 16, t.readStk j = s.readStk j) ∧
        sameRegsExcept [] s t ∧ sameScreen s t ∧ sameMemory s t ∧ sameUnwritten s t)

/-- `RET` with `SP` above 16 is refused: the model's choice for states no run reaches (log 8). -/
def Obligations.RetBeyondStackIsRefused : Prop :=
  ∀ s : State, 16 < s.sp.toNat → exec .ret s = .refused .stackPointerBeyondStack

/-- `JP nnn` sets `PC` to the zero-extended target and changes nothing else (41_control_flow.md R141). -/
def Obligations.JpSetsPc : Prop :=
  ∀ (nnn : BitVec 12) (s : State), ∃ t, exec (.jp nnn) s = .next t ∧ t.pc.toNat = nnn.toNat ∧
    sameRegsExcept [] s t ∧ sameOutsideRegs s t

/-- `CALL nnn` with 16 entries in use raises StackOverflow, and the step that runs it changes nothing; else it stores
`PC + 2` in the entry at `SP`, over the integers wherever the call was fetched, counts it and jumps (41_control_flow.md
R142). -/
def Obligations.CallPushesReturnAddress : Prop :=
  ∀ (nnn : BitVec 12) (s : State),
    (16 ≤ s.sp.toNat → exec (.call nnn) s = .fault .stackOverflow ∧
      ∀ p, fetch s = .ok (encode (.call nnn)) → operateLoaded p .step s = (.fault .stackOverflow, s)) ∧
    (∀ k : Fin 16, s.sp.toNat = k.val →
      ∃ t, exec (.call nnn) s = .next t ∧ t.pc.toNat = nnn.toNat ∧ t.sp.toNat = k.val + 1 ∧
        t.readStk k = s.pc + 2 ∧ (s.pc.toNat + 1 < 4096 → (t.readStk k).toNat = s.pc.toNat + 2) ∧
        (∀ j : Fin 16, j ≠ k → t.readStk j = s.readStk j) ∧
        sameRegsExcept [] s t ∧ sameScreen s t ∧ sameMemory s t ∧ sameUnwritten s t)

/-- The round trip of 41_control_flow.md R143 (an inference the spec marks as derived): a call made with `SP = k`, then
any steps and host operations with more than `k` entries in use all along, then the return that pops entry `k`, leave
`PC` at the instruction after the call and `SP = k`. -/
def Obligations.CallReturnsToNextInstruction : Prop :=
  ∀ (nnn : BitVec 12) (s t u : State), exec (.call nnn) s = .next t → RunsAbove s.sp.toNat t u →
    u.sp.toNat = s.sp.toNat + 1 → ∃ r, exec .ret u = .next r ∧ r.pc = s.pc + 2 ∧ r.sp = s.sp

/-- A jump to its own address is a fixed point of `step` (40_step_cycle.md R131, an inference the spec marks as
derived; the spec's decision D24, log 29). -/
def Obligations.SelfJumpIsFixedPoint : Prop :=
  ∀ (s : State) (nnn : BitVec 12), fetch s = .ok (encode (.jp nnn)) → nnn.toNat = s.pc.toNat → step s = .next s

/-! ## Conditional skips -/

/-- `SKEQI Vx, nn` writes `PC` only: 4 further if `V[X] = NN`, else 2 (42_conditional_skips.md R150). -/
def Obligations.SkeqiSkipsIfEqual : Prop :=
  ∀ (x : Reg) (nn : Byte) (s : State), ∃ t, exec (.skeqi x nn) s = .next t ∧
    (s.readV x = nn → t.pc = s.pc + 4) ∧ (s.readV x ≠ nn → t.pc = s.pc + 2) ∧
    sameRegsExcept [] s t ∧ sameOutsideRegs s t

/-- `SKNEI Vx, nn` writes `PC` only: 4 further if `V[X] != NN`, else 2 (42_conditional_skips.md R151). -/
def Obligations.SkneiSkipsIfDifferent : Prop :=
  ∀ (x : Reg) (nn : Byte) (s : State), ∃ t, exec (.sknei x nn) s = .next t ∧
    (s.readV x ≠ nn → t.pc = s.pc + 4) ∧ (s.readV x = nn → t.pc = s.pc + 2) ∧
    sameRegsExcept [] s t ∧ sameOutsideRegs s t

/-- `SKEQR Vx, Vy` writes `PC` only: 4 further if `V[X] = V[Y]`, else 2 (42_conditional_skips.md R152). -/
def Obligations.SkeqrSkipsIfEqual : Prop :=
  ∀ (x y : Reg) (s : State), ∃ t, exec (.skeqr x y) s = .next t ∧
    (s.readV x = s.readV y → t.pc = s.pc + 4) ∧ (s.readV x ≠ s.readV y → t.pc = s.pc + 2) ∧
    sameRegsExcept [] s t ∧ sameOutsideRegs s t

/-- `SKP Vx` writes `PC` only: 4 further if the key it names is pressed, else 2 (45_input_skips.md R190). That the key
is the low 4 bits of `V[X]` is the spec's decision D13 (log 10). -/
def Obligations.SkpSkipsIfPressed : Prop :=
  ∀ (x : Reg) (k : Fin 16) (s : State), (s.readV x).toNat % 16 = k.val → ∃ t, exec (.skp x) s = .next t ∧
    (s.readKey k = true → t.pc = s.pc + 4) ∧ (s.readKey k = false → t.pc = s.pc + 2) ∧
    sameRegsExcept [] s t ∧ sameOutsideRegs s t

/-- `SKNP Vx` writes `PC` only: 4 further if the key it names is not pressed, else 2 (45_input_skips.md R191). That the
key is the low 4 bits of `V[X]` is the spec's decision D13 (log 10). -/
def Obligations.SknpSkipsIfNotPressed : Prop :=
  ∀ (x : Reg) (k : Fin 16) (s : State), (s.readV x).toNat % 16 = k.val → ∃ t, exec (.sknp x) s = .next t ∧
    (s.readKey k = false → t.pc = s.pc + 4) ∧ (s.readKey k = true → t.pc = s.pc + 2) ∧
    sameRegsExcept [] s t ∧ sameOutsideRegs s t

/-! ## Register load and ALU -/

/-- `LDI Vx, nn` (43_load_and_alu.md R160). -/
def Obligations.LdiLoadsImmediate : Prop :=
  ∀ (x : Reg) (nn : Byte) (s : State), ∃ t, exec (.ldi x nn) s = .next t ∧
    t.readV x = nn ∧ t.pc = s.pc + 2 ∧ sameRegsExcept [x] s t ∧ sameOutsideRegs s t

/-- `ADDI Vx, nn`: the sum mod 256, and `VF` unaffected unless it is the destination (43_load_and_alu.md R161). -/
def Obligations.AddiAddsImmediateModulo256 : Prop :=
  ∀ (x : Reg) (nn : Byte) (s : State), ∃ t, exec (.addi x nn) s = .next t ∧
    (t.readV x).toNat = ((s.readV x).toNat + nn.toNat) % 256 ∧ t.pc = s.pc + 2 ∧
    sameRegsExcept [x] s t ∧ sameOutsideRegs s t

/-- `MOV Vx, Vy` (43_load_and_alu.md R162). -/
def Obligations.MovCopiesRegister : Prop :=
  ∀ (x y : Reg) (s : State), ∃ t, exec (.mov x y) s = .next t ∧
    t.readV x = s.readV y ∧ t.pc = s.pc + 2 ∧ sameRegsExcept [x] s t ∧ sameOutsideRegs s t

/-- `OR`, `AND`, `XOR`: the operation on each of the 8 bits, and `VF` unaffected unless it is the destination
(43_load_and_alu.md R163, R164, R165). -/
def Obligations.LogicOperationsCombineBits : Prop :=
  ∀ (x y : Reg) (s : State),
    (∃ t, exec (.or x y) s = .next t ∧
      (∀ k, k < 8 → (t.readV x).getLsbD k = ((s.readV x).getLsbD k || (s.readV y).getLsbD k)) ∧
      t.pc = s.pc + 2 ∧ sameRegsExcept [x] s t ∧ sameOutsideRegs s t) ∧
    (∃ t, exec (.and x y) s = .next t ∧
      (∀ k, k < 8 → (t.readV x).getLsbD k = ((s.readV x).getLsbD k && (s.readV y).getLsbD k)) ∧
      t.pc = s.pc + 2 ∧ sameRegsExcept [x] s t ∧ sameOutsideRegs s t) ∧
    (∃ t, exec (.xor x y) s = .next t ∧
      (∀ k, k < 8 → (t.readV x).getLsbD k = ((s.readV x).getLsbD k != (s.readV y).getLsbD k)) ∧
      t.pc = s.pc + 2 ∧ sameRegsExcept [x] s t ∧ sameOutsideRegs s t)

/-- `ADD Vx, Vy`: `V[X]` gets the sum of the old operands mod 256, also where `X` or `Y` is F; `VF` gets the carry unless
`X` is F (43_load_and_alu.md R166). The corner cases with F rest on the spec's decision D7 (log 6). -/
def Obligations.AddWritesSumAndCarry : Prop :=
  ∀ (x y : Reg) (s : State), ∃ t, exec (.add x y) s = .next t ∧
    (t.readV x).toNat = ((s.readV x).toNat + (s.readV y).toNat) % 256 ∧
    (x ≠ regF → flagIs (t.readV regF) ((s.readV x).toNat + (s.readV y).toNat > 255)) ∧
    t.pc = s.pc + 2 ∧ sameRegsExcept [x, regF] s t ∧ sameOutsideRegs s t

/-- `SUB Vx, Vy`: `V[X]` gets the difference of the old operands mod 256, also where `X` or `Y` is F; `VF` gets 1 for no
borrow unless `X` is F (43_load_and_alu.md R167). The corner cases with F rest on the spec's decision D7 (log 6). -/
def Obligations.SubWritesDifferenceAndNoBorrow : Prop :=
  ∀ (x y : Reg) (s : State), ∃ t, exec (.sub x y) s = .next t ∧
    ((t.readV x).toNat : Int) = ((s.readV x).toNat - (s.readV y).toNat : Int) % 256 ∧
    (x ≠ regF → flagIs (t.readV regF) ((s.readV x).toNat ≥ (s.readV y).toNat)) ∧
    t.pc = s.pc + 2 ∧ sameRegsExcept [x, regF] s t ∧ sameOutsideRegs s t

/-- The two write orders of the spec's decision D7 leave the same state where the destination is not F; where it is F,
they leave the same but for `VF`, where the result stays under `flag_first` and the flag under `flag_last` (log 6). -/
def Obligations.WriteOrderMattersOnlyForVF : Prop :=
  ∀ (x : Reg) (flag result : Byte) (s : State),
    (x ≠ regF → s.writeFlagAndResult .flagLast x flag result = s.writeFlagAndResult .flagFirst x flag result) ∧
    sameRegsExcept [regF] (s.writeFlagAndResult .flagFirst regF flag result)
      (s.writeFlagAndResult .flagLast regF flag result) ∧
    sameOutsideRegs (s.writeFlagAndResult .flagFirst regF flag result)
      (s.writeFlagAndResult .flagLast regF flag result) ∧
    (s.writeFlagAndResult .flagLast regF flag result).pc = (s.writeFlagAndResult .flagFirst regF flag result).pc ∧
    (s.writeFlagAndResult .flagFirst regF flag result).readV regF = result ∧
    (s.writeFlagAndResult .flagLast regF flag result).readV regF = flag

/-! ## Display -/

/-- `CLS`: all 2048 pixels 0, `NR` 1, nothing else but `PC` (44_display.md R180). -/
def Obligations.ClsClearsScreen : Prop :=
  ∀ s : State, ∃ t, exec .cls s = .next t ∧ (∀ x y, pixel t.fb x y = false) ∧ t.nr = true ∧ t.pc = s.pc + 2 ∧
    sameRegsExcept [] s t ∧ sameStack s t ∧ sameMemory s t ∧ sameUnwritten s t

/-- `DRAW` with a sprite address outside memory raises OutOfBoundsAccess (44_display.md R181). The address it reports is
the spec's decision D11 and D15 (log 14). -/
def Obligations.DrawOutsideMemoryFaults : Prop :=
  ∀ (x y : Reg) (n : BitVec 4) (s : State), ¬ spriteInMemory s n →
    exec (.draw x y n) s = .fault (.outOfBoundsAccess (if 4096 ≤ s.i.toNat then s.i.toNat else 4096))

/-- `DRAW` with its sprite inside memory toggles exactly the pixels under a 1 bit, wrapping mod 64 and mod 32, and sets
`VF` to whether one of them was 1 before, `NR` to 1 (44_display.md R181). The form `n = 0` rests on the spec's decision
D14 (log 12), coordinates read from the old `VF` on D7 (log 6). -/
def Obligations.DrawTogglesCoveredPixels : Prop :=
  ∀ (x y : Reg) (n : BitVec 4) (s : State), spriteInMemory s n → ∃ t, exec (.draw x y n) s = .next t ∧
    (∀ a b, (spriteCovers s (s.readV x).toNat (s.readV y).toNat n.toNat a b → pixel t.fb a b = !pixel s.fb a b) ∧
      (¬ spriteCovers s (s.readV x).toNat (s.readV y).toNat n.toNat a b → pixel t.fb a b = pixel s.fb a b)) ∧
    flagIs (t.readV regF)
      (∃ a b, spriteCovers s (s.readV x).toNat (s.readV y).toNat n.toNat a b ∧ pixel s.fb a b = true) ∧
    t.nr = true ∧ t.pc = s.pc + 2 ∧
    sameRegsExcept [regF] s t ∧ sameStack s t ∧ sameMemory s t ∧ sameUnwritten s t

/-- Drawing the same sprite at the same place twice restores the screen; the second draw collides iff a covered pixel was
0 before the first (44_display.md R182, an inference the spec marks as derived; 90_conflicts.md C11, log 23). The place
is the same when the first draw's flag did not change a coordinate register. -/
def Obligations.DrawTwiceRestoresScreen : Prop :=
  ∀ (x y : Reg) (n : BitVec 4) (s t : State), exec (.draw x y n) s = .next t →
    t.readV x = s.readV x → t.readV y = s.readV y →
    ∃ u, exec (.draw x y n) t = .next u ∧ (∀ a b, pixel u.fb a b = pixel s.fb a b) ∧
      flagIs (u.readV regF)
        (∃ a b, spriteCovers s (s.readV x).toNat (s.readV y).toNat n.toNat a b ∧ pixel s.fb a b = false)

/-! ## Rules of the whole machine -/

/-- No instruction writes memory, `I`, a timer or a key (10_state.md R23, R27, R31, R32, R37; 40_step_cycle.md R123). -/
def Obligations.NoStepWritesMemoryIndexTimersKeys : Prop :=
  ∀ s t : State, step s = .next t →
    t.mem = s.mem ∧ t.i = s.i ∧ t.dt = s.dt ∧ t.st = s.st ∧ t.key = s.key

/-- Only `CALL` writes the call stack, and only `CALL` and `RET` write `SP` (10_state.md R26, R37). -/
def Obligations.OnlyCallAndRetUseStack : Prop :=
  ∀ (i : Instr) (s t : State), exec i s = .next t →
    (t.stk ≠ s.stk → ∃ nnn, i = .call nnn) ∧ (t.sp ≠ s.sp → i = .ret ∨ ∃ nnn, i = .call nnn)

/-- Only `CLS` and `DRAW` change the screen or `NR`; both set `NR`, and no instruction clears it (10_state.md R29, R30;
60_exceptions.md R229). -/
def Obligations.ScreenChangesRequestRedraw : Prop :=
  ∀ (i : Instr) (s t : State), exec i s = .next t →
    ((i = .cls ∨ ∃ x y n, i = .draw x y n) → t.nr = true) ∧
    (¬ (i = .cls ∨ ∃ x y n, i = .draw x y n) → t.fb = s.fb ∧ t.nr = s.nr)

/-- A register that an instruction changes is its destination `X`, or `VF` for `ADD`, `SUB`, `DRAW` (10_state.md R22,
R34, R37). -/
def Obligations.RegistersChangeOnlyAsDestination : Prop :=
  ∀ (i : Instr) (s t : State) (z : Reg), exec i s = .next t → t.readV z ≠ s.readV z →
    (∃ nn, i = .ldi z nn ∨ i = .addi z nn) ∨
    (∃ y, i = .mov z y ∨ i = .or z y ∨ i = .and z y ∨ i = .xor z y ∨ i = .add z y ∨ i = .sub z y) ∨
    (z = regF ∧ ((∃ x y, i = .add x y ∨ i = .sub x y) ∨ ∃ x y n, i = .draw x y n))

/-- A tick never changes what a program computes: stepping and ticking commute (40_step_cycle.md R130, an inference the
spec marks as derived; R207). -/
def Obligations.TicksDoNotChangeExecution : Prop :=
  ∀ s : State, step (tickTimers s) = mapNext tickTimers (step s)

/-- A key change is seen only by a `SKP` or `SKNP` that names that key: any other step commutes with it (10_state.md
R31; 40_step_cycle.md R130, an inference the spec marks as derived; the key id rests on D13, log 10). -/
def Obligations.KeysAreSeenOnlyBySkips : Prop :=
  ∀ (id : Fin 16) (pressed : Bool) (s : State),
    (∀ w x, fetch s = .ok w → decodeWord w = .ok (.skp x) ∨ decodeWord w = .ok (.sknp x) →
      (s.readV x).toNat % 16 ≠ id.val) →
    step (setKey id pressed s) = mapNext (setKey id pressed) (step s)

/-! ## Invariants -/

/-- The state after reset meets the invariant of 10_state.md R36 and is quiet. It rests on the spec's decisions D3, D4,
D5 (log 2, log 3, log 4). -/
def Obligations.ResetMeetsInvariant : Prop := State.reset.Inv ∧ State.reset.Quiet

/-- Every step keeps the invariant: `SP` at most 16, memory in canonical form, the font in place (10_state.md R25, R36).
The canonical form is the model's own. -/
def Obligations.StepKeepsInvariant : Prop :=
  ∀ s t : State, s.Inv → step s = .next t → t.Inv

/-- Every operation of the host keeps the invariant, whatever it replies (10_state.md R36: "true after reset and kept by
every operation"; debug port and failed operations included). -/
def Obligations.OperationKeepsInvariant : Prop :=
  ∀ (p : Config.UnknownPolicy) (op : Op) (m : Boot), m.Inv → (operate p op m).2.Inv

/-- The machine meets the invariant after any sequence of operations from its construction (10_state.md R36; the refusal
before the first `load` is log 15). -/
def Obligations.EveryRunKeepsInvariant : Prop :=
  ∀ (p : Config.UnknownPolicy) (ops : List Op), (operateAll p ops .constructed).2.Inv

/-- Without the debug port `I` and the timers stay 0 and nothing is ever drawn (70_reset_and_hazards.md R246,
60_exceptions.md R211, inferences the spec marks as derived; D4, log 2). -/
def Obligations.QuietMachineStaysQuiet : Prop :=
  ∀ (p : Config.UnknownPolicy) (op : Op) (m : Boot), (∀ item n, op ≠ .debugWrite item n) → m.Quiet →
    (operate p op m).2.Quiet

/-! ## Memory, reset and load -/

/-- `MemRead` and `MemWrite` fault exactly at and above `SIZE`; a write sets its byte and leaves every other byte alone
(20_memory.md R62). The premise is the canonical form, which every operation keeps. -/
def Obligations.MemoryReadsAndWritesBytes : Prop :=
  ∀ (m : Memory) (a : Nat) (b : Byte), Memory.wf m = true →
    (4096 ≤ a → memRead m a = .error (.outOfBoundsAccess a) ∧ memWrite m a b = .error (.outOfBoundsAccess a)) ∧
    (a < 4096 → memRead m a = .ok (byteAt m a) ∧
      ∃ m', memWrite m a b = .ok m' ∧ ∀ c, byteAt m' c = if c = a then b else byteAt m c)

/-- Two memories in canonical form that read the same everywhere are equal data: the model's own form (log 3). -/
def Obligations.CanonicalMemoriesAreEqualData : Prop :=
  ∀ m m' : Memory, Memory.wf m = true → Memory.wf m' = true → (∀ a, a < 4096 → byteAt m a = byteAt m' a) → m = m'

/-- The state after reset (10_state.md R35): all its values but the program's bytes are the spec's decisions D2, D3, D4,
D5 (log 2, log 3, log 4, log 5). -/
def Obligations.ResetState : Prop :=
  (∀ x, State.reset.readV x = 0) ∧ State.reset.i = 0 ∧ State.reset.pc = 0x200 ∧ State.reset.sp = 0 ∧
  (∀ k, State.reset.readStk k = 0) ∧ State.reset.dt = 0 ∧ State.reset.st = 0 ∧
  (∀ x y, pixel State.reset.fb x y = false) ∧ State.reset.nr = false ∧ (∀ k, State.reset.readKey k = false) ∧
  ∀ a, State.reset.readByte a = if 0x050 ≤ a ∧ a < 0x0A0 then Config.fontTable.getD (a - 0x050) 0 else 0

/-- `load` of at most 3584 bytes resets everything and copies the image to 0x200, every other byte as after reset; a
longer image faults and changes nothing (70_reset_and_hazards.md R240 to R242; the spec's decisions D4, D5, D19, log 2
and log 13). -/
def Obligations.LoadResetsAndPlacesImage : Prop :=
  ∀ (p : Config.UnknownPolicy) (image : List Byte) (s : State),
    (3584 < image.length → operateLoaded p (.load image) s = (.fault (.programTooLarge image.length), s)) ∧
    (image.length ≤ 3584 → ∃ t, operateLoaded p (.load image) s = (.ok, t) ∧
      t = { State.reset with mem := t.mem } ∧
      (∀ a, t.readByte a =
        if 0x200 ≤ a ∧ a < 0x200 + image.length then image.getD (a - 0x200) 0 else State.reset.readByte a))

/-- Before the first successful `load` every other operation is refused and changes nothing; a failed `load` leaves the
machine as it was; a successful one leaves the state after reset with the image at 0x200 (70_reset_and_hazards.md R240,
R242, R245, 10_state.md R35; the spec's decisions D4, D5, D19, log 2 and log 13; that all operations and not only `step`
are refused is log 15). -/
def Obligations.OnlyLoadBeforeFirstLoad : Prop :=
  ∀ (p : Config.UnknownPolicy) (op : Op),
    ((∀ image, op ≠ .load image) → operate p op .constructed = (.refused .beforeLoad, .constructed)) ∧
    (∀ image, op = .load image → 3584 < image.length →
      operate p op .constructed = (.fault (.programTooLarge image.length), .constructed)) ∧
    (∀ image, op = .load image → image.length ≤ 3584 →
      ∃ t, operate p op .constructed = (.ok, .loaded t) ∧ t = { State.reset with mem := t.mem } ∧
      (∀ a, t.readByte a =
        if 0x200 ≤ a ∧ a < 0x200 + image.length then image.getD (a - 0x200) 0 else State.reset.readByte a))

/-! ## Host operations -/

/-- `tick_timers` decrements each timer that is above 0, always replies `Ok`, and changes nothing else
(60_exceptions.md R210). -/
def Obligations.TickDecrementsTimers : Prop :=
  ∀ (p : Config.UnknownPolicy) (s : State), ∃ t, operateLoaded p .tickTimers s = (.ok, t) ∧
    t.dt.toNat = s.dt.toNat - 1 ∧ t.st.toNat = s.st.toNat - 1 ∧ t = { s with dt := t.dt, st := t.st }

/-- `set_key` sets one key, always replies `Ok`, and changes nothing else (60_exceptions.md R218; the spec's decision
D26, log 21). -/
def Obligations.SetKeySetsOneKey : Prop :=
  ∀ (p : Config.UnknownPolicy) (id : Fin 16) (pressed : Bool) (s : State),
    ∃ t, operateLoaded p (.setKey id pressed) s = (.ok, t) ∧
      (∀ k, t.readKey k = if k = id then pressed else s.readKey k) ∧ t = { s with key := t.key }

/-- `read_frame` returns the 2048 pixels and `NR` and changes nothing (60_exceptions.md R220). That pixel (`x`, `y`)
stands at index `y * 64 + x` is the spec's decision D16 (log 17). -/
def Obligations.ReadFrameReturnsPixels : Prop :=
  ∀ (p : Config.UnknownPolicy) (s : State), ∃ pixels, operateLoaded p .readFrame s = (.frame pixels s.nr, s) ∧
    pixels.length = 2048 ∧ ∀ (x : Fin 64) (y : Fin 32), pixels[y.val * 64 + x.val]? = some (pixel s.fb x y)

/-- `frame_consumed` clears `NR` and changes nothing else (60_exceptions.md R221; the operation's name is the spec's
decision D17, log 18). -/
def Obligations.FrameConsumedClearsRedraw : Prop :=
  ∀ (p : Config.UnknownPolicy) (s : State), operateLoaded p .frameConsumed s = (.ok, { s with nr := false })

/-- `sound_active` is 1 exactly while `ST > 0`, a pure function of `ST` (60_exceptions.md R224). -/
def Obligations.SoundActiveWhileTimerRuns : Prop :=
  ∀ (p : Config.UnknownPolicy) (s : State), ∃ level, operateLoaded p .soundActive s = (.level level, s) ∧
    (level = true ↔ 0 < s.st.toNat)

/-- `debug_read` answers the item of the state it names and changes nothing; `debug_write` takes every value within the
item's width, an `SP` up to 16, and then the item is that value and every other item is as before (60_exceptions.md R227;
the spec's decision D20, log 16). -/
def Obligations.DebugWriteSetsOneItem : Prop :=
  ∀ (p : Config.UnknownPolicy) (item : Item) (s : State),
    operateLoaded p (.debugRead item) s = (.value (match item with
      | .v x => s.v[x].toNat
      | .i => s.i.toNat
      | .pc => s.pc.toNat
      | .sp => s.sp.toNat
      | .stk k => s.stk[k].toNat
      | .dt => s.dt.toNat
      | .st => s.st.toNat
      | .fb x y => s.fb[x][y].toNat
      | .nr => s.nr.toNat
      | .key k => s.key[k].toNat
      | .mem a => (byteAt s.mem a.val).toNat), s) ∧
    ∀ n : Nat,
      (match item with
        | .v _ | .dt | .st => n ≤ 255
        | .i | .pc | .stk _ => n ≤ 65535
        | .sp => n ≤ 16
        | .fb _ _ | .nr => n ≤ 1
        | .key _ | .mem _ => False) →
      ∃ t, operateLoaded p (.debugWrite item n) s = (.ok, t) ∧
        ∀ other v, operateLoaded p (.debugRead other) s = (.value v, s) →
          operateLoaded p (.debugRead other) t = (.value (if other = item then n else v), t)

/-- The debug port refuses, with no effect, a value outside the item's width, an `SP` above 16, and any write of a key
or of memory (60_exceptions.md R227; the spec's decision D20, log 16). -/
def Obligations.DebugWriteRefusals : Prop :=
  ∀ (p : Config.UnknownPolicy) (item : Item) (n : Nat) (s : State),
    (match item with
      | .v _ | .dt | .st => 255 < n
      | .i | .pc | .stk _ => 65535 < n
      | .sp => 16 < n
      | .fb _ _ | .nr => 1 < n
      | .key _ | .mem _ => True) →
    operateLoaded p (.debugWrite item n) s = (.refused .debugWriteRefused, s)

/-- The host operation `step` replies as `step` answers, and leaves the next state where there is one; any operation on a
loaded machine is the operation on its state (40_step_cycle.md R120, 60_exceptions.md R201, R214). What a fault leaves is
in the statements about faults; that a refusal leaves the state as it was is the model's choice (log 8). -/
def Obligations.OperationsActOnTheState : Prop :=
  ∀ (p : Config.UnknownPolicy) (s : State),
    (∀ t, step s = .next t → operateLoaded p .step s = (.ok, t)) ∧
    (∀ f, step s = .fault f → (operateLoaded p .step s).1 = .fault f) ∧
    (∀ r, step s = .refused r → operateLoaded p .step s = (.refused r, s)) ∧
    ∀ op, operate p op (.loaded s) = ((operateLoaded p op s).1, .loaded (operateLoaded p op s).2)
end

