-- ==== Sys2Proof/Laws/Encoding.lean ====
section
/-! SUPPORT. Words and their fields as numbers. -/

namespace Sys2Proof.Laws

/-- Concatenation as a number: the high part shifted past the low one. -/
theorem append_toNat {n m : Nat} (a : BitVec n) (b : BitVec m) : (a ++ b).toNat = a.toNat * 2 ^ m + b.toNat := by
  rw [BitVec.toNat_append, ← Nat.shiftLeft_add_eq_or_of_lt b.isLt, Nat.shiftLeft_eq]

theorem formatA_toNat (f : BitVec 4) (n : BitVec 12) : (formatA f n).toNat = f.toNat * 4096 + n.toNat :=
  append_toNat f n

theorem formatXI_toNat (f : BitVec 4) (x : Reg) (n : Byte) :
    (formatXI f x n).toNat = f.toNat * 4096 + x.val * 256 + n.toNat := by
  have h : (formatXI f x n).toNat = (f ++ (BitVec.ofFin x : BitVec 4)).toNat * 256 + n.toNat := append_toNat _ n
  have hf : (f ++ (BitVec.ofFin x : BitVec 4)).toNat = f.toNat * 16 + x.val := append_toNat f _
  rw [h, hf]; ring

theorem formatXYN_toNat (f : BitVec 4) (x y : Reg) (n : BitVec 4) :
    (formatXYN f x y n).toNat = f.toNat * 4096 + x.val * 256 + y.val * 16 + n.toNat := by
  have h : (formatXYN f x y n).toNat =
      (f ++ (BitVec.ofFin x : BitVec 4) ++ (BitVec.ofFin y : BitVec 4)).toNat * 16 + n.toNat := append_toNat _ n
  have hy : (f ++ (BitVec.ofFin x : BitVec 4) ++ (BitVec.ofFin y : BitVec 4)).toNat =
      (f ++ (BitVec.ofFin x : BitVec 4)).toNat * 16 + y.val := append_toNat _ _
  have hf : (f ++ (BitVec.ofFin x : BitVec 4)).toNat = f.toNat * 16 + x.val := append_toNat f _
  rw [h, hy, hf]; ring

theorem fieldFamily_toNat (w : Word) : (fieldFamily w).toNat = w.toNat / 4096 := by
  simp only [fieldFamily, BitVec.extractLsb'_toNat, Nat.shiftRight_eq_div_pow]; omega

theorem fieldX_val (w : Word) : (fieldX w).val = w.toNat / 256 % 16 := by
  change (w.extractLsb' 8 4).toNat = _
  simp only [BitVec.extractLsb'_toNat, Nat.shiftRight_eq_div_pow]

theorem fieldY_val (w : Word) : (fieldY w).val = w.toNat / 16 % 16 := by
  change (w.extractLsb' 4 4).toNat = _
  simp only [BitVec.extractLsb'_toNat, Nat.shiftRight_eq_div_pow]

theorem fieldN_toNat (w : Word) : (fieldN w).toNat = w.toNat % 16 := by
  simp only [fieldN, BitVec.extractLsb'_toNat, Nat.shiftRight_eq_div_pow]; omega

theorem fieldNN_toNat (w : Word) : (fieldNN w).toNat = w.toNat % 256 := by
  simp only [fieldNN, BitVec.extractLsb'_toNat, Nat.shiftRight_eq_div_pow]; omega

theorem fieldNNN_toNat (w : Word) : (fieldNNN w).toNat = w.toNat % 4096 := by
  simp only [fieldNNN, BitVec.extractLsb'_toNat, Nat.shiftRight_eq_div_pow]; omega

theorem joinBytes_toNat (hi lo : Byte) : (joinBytes hi lo).toNat = hi.toNat * 256 + lo.toNat := append_toNat hi lo

/-- Decoding a word: the first row that matches, or none matches. -/
theorem decodeWord_cases (w : Word) :
    (∃ r, decodeRows.find? (fun r => rowMatches r.1 w) = some r ∧ decodeWord w = .ok (r.2 w)) ∨
    (decodeRows.find? (fun r => rowMatches r.1 w) = none ∧ decodeWord w = .error (.unknownOpcode w)) := by
  unfold decodeWord
  cases h : decodeRows.find? (fun r => rowMatches r.1 w) with
  | none => exact .inr ⟨rfl, rfl⟩
  | some r => exact .inl ⟨r, rfl, rfl⟩

end Sys2Proof.Laws
end

