-- ==== Sys2Proof/Laws/State.lean ====
section
/-! SUPPORT. What each single-field write leaves of each field and of each read: one lemma per field per write, so that
no proof unfolds a record update. -/

namespace Sys2Proof.Machine

@[simp] theorem memSize_eq : Config.memSize = 4096 := rfl
@[simp] theorem xlen_eq : Config.xlen = 8 := rfl
@[simp] theorem nreg_eq : Config.nreg = 16 := rfl
@[simp] theorem stackDepth_eq : Config.stackDepth = 16 := rfl
@[simp] theorem fbW_eq : Config.fbW = 64 := rfl
@[simp] theorem fbH_eq : Config.fbH = 32 := rfl
@[simp] theorem nkeys_eq : Config.nkeys = 16 := rfl
@[simp] theorem ilen_eq : Config.ilen = 2 := rfl
@[simp] theorem progBase_eq : Config.progBase = 512 := rfl
@[simp] theorem fontBase_eq : Config.fontBase = 80 := rfl
@[simp] theorem flagWriteOrder_eq : Config.flagWriteOrder = .flagFirst := rfl

/-! ## The types fixed as numerals agree with their parameters (log 30) -/

theorem byte_eq : Byte = BitVec Config.xlen := rfl
theorem reg_eq : Reg = Fin Config.nreg := rfl
theorem word_eq : Word = BitVec (8 * Config.ilen) := rfl
theorem framebuffer_eq : Framebuffer = Vector (Vector Bool 32) 64 := rfl
theorem stk_index_eq : Fin 16 = Fin Config.stackDepth := rfl
theorem key_index_eq : Fin 16 = Fin Config.nkeys := rfl

variable (s : State)

/-! ## `writeV` -/

@[simp] theorem State.writeV_v (x : Reg) (b : Byte) : (s.writeV x b).v = s.v.set x b := rfl
@[simp] theorem State.writeV_i (x : Reg) (b : Byte) : (s.writeV x b).i = s.i := rfl
@[simp] theorem State.writeV_pc (x : Reg) (b : Byte) : (s.writeV x b).pc = s.pc := rfl
@[simp] theorem State.writeV_sp (x : Reg) (b : Byte) : (s.writeV x b).sp = s.sp := rfl
@[simp] theorem State.writeV_stk (x : Reg) (b : Byte) : (s.writeV x b).stk = s.stk := rfl
@[simp] theorem State.writeV_dt (x : Reg) (b : Byte) : (s.writeV x b).dt = s.dt := rfl
@[simp] theorem State.writeV_st (x : Reg) (b : Byte) : (s.writeV x b).st = s.st := rfl
@[simp] theorem State.writeV_fb (x : Reg) (b : Byte) : (s.writeV x b).fb = s.fb := rfl
@[simp] theorem State.writeV_nr (x : Reg) (b : Byte) : (s.writeV x b).nr = s.nr := rfl
@[simp] theorem State.writeV_key (x : Reg) (b : Byte) : (s.writeV x b).key = s.key := rfl
@[simp] theorem State.writeV_mem (x : Reg) (b : Byte) : (s.writeV x b).mem = s.mem := rfl
@[simp] theorem State.writeV_readStk (x : Reg) (b : Byte) (j : Fin 16) : (s.writeV x b).readStk j = s.readStk j := rfl
@[simp] theorem State.writeV_readKey (x : Reg) (b : Byte) (j : Fin 16) : (s.writeV x b).readKey j = s.readKey j := rfl
@[simp] theorem State.writeV_readByte (x : Reg) (b : Byte) (a : Nat) : (s.writeV x b).readByte a = s.readByte a := rfl

/-! ## `setI` -/

@[simp] theorem State.setI_v (w : Word) : (s.setI w).v = s.v := rfl
@[simp] theorem State.setI_i (w : Word) : (s.setI w).i = w := rfl
@[simp] theorem State.setI_pc (w : Word) : (s.setI w).pc = s.pc := rfl
@[simp] theorem State.setI_sp (w : Word) : (s.setI w).sp = s.sp := rfl
@[simp] theorem State.setI_stk (w : Word) : (s.setI w).stk = s.stk := rfl
@[simp] theorem State.setI_dt (w : Word) : (s.setI w).dt = s.dt := rfl
@[simp] theorem State.setI_st (w : Word) : (s.setI w).st = s.st := rfl
@[simp] theorem State.setI_fb (w : Word) : (s.setI w).fb = s.fb := rfl
@[simp] theorem State.setI_nr (w : Word) : (s.setI w).nr = s.nr := rfl
@[simp] theorem State.setI_key (w : Word) : (s.setI w).key = s.key := rfl
@[simp] theorem State.setI_mem (w : Word) : (s.setI w).mem = s.mem := rfl
@[simp] theorem State.setI_readV (w : Word) (z : Reg) : (s.setI w).readV z = s.readV z := rfl
@[simp] theorem State.setI_readStk (w : Word) (j : Fin 16) : (s.setI w).readStk j = s.readStk j := rfl
@[simp] theorem State.setI_readKey (w : Word) (j : Fin 16) : (s.setI w).readKey j = s.readKey j := rfl
@[simp] theorem State.setI_readByte (w : Word) (a : Nat) : (s.setI w).readByte a = s.readByte a := rfl

/-! ## `setPc` -/

@[simp] theorem State.setPc_v (w : Word) : (s.setPc w).v = s.v := rfl
@[simp] theorem State.setPc_i (w : Word) : (s.setPc w).i = s.i := rfl
@[simp] theorem State.setPc_pc (w : Word) : (s.setPc w).pc = w := rfl
@[simp] theorem State.setPc_sp (w : Word) : (s.setPc w).sp = s.sp := rfl
@[simp] theorem State.setPc_stk (w : Word) : (s.setPc w).stk = s.stk := rfl
@[simp] theorem State.setPc_dt (w : Word) : (s.setPc w).dt = s.dt := rfl
@[simp] theorem State.setPc_st (w : Word) : (s.setPc w).st = s.st := rfl
@[simp] theorem State.setPc_fb (w : Word) : (s.setPc w).fb = s.fb := rfl
@[simp] theorem State.setPc_nr (w : Word) : (s.setPc w).nr = s.nr := rfl
@[simp] theorem State.setPc_key (w : Word) : (s.setPc w).key = s.key := rfl
@[simp] theorem State.setPc_mem (w : Word) : (s.setPc w).mem = s.mem := rfl
@[simp] theorem State.setPc_readV (w : Word) (z : Reg) : (s.setPc w).readV z = s.readV z := rfl
@[simp] theorem State.setPc_readStk (w : Word) (j : Fin 16) : (s.setPc w).readStk j = s.readStk j := rfl
@[simp] theorem State.setPc_readKey (w : Word) (j : Fin 16) : (s.setPc w).readKey j = s.readKey j := rfl
@[simp] theorem State.setPc_readByte (w : Word) (a : Nat) : (s.setPc w).readByte a = s.readByte a := rfl

/-! ## `setSp` -/

@[simp] theorem State.setSp_v (n : Byte) : (s.setSp n).v = s.v := rfl
@[simp] theorem State.setSp_i (n : Byte) : (s.setSp n).i = s.i := rfl
@[simp] theorem State.setSp_pc (n : Byte) : (s.setSp n).pc = s.pc := rfl
@[simp] theorem State.setSp_sp (n : Byte) : (s.setSp n).sp = n := rfl
@[simp] theorem State.setSp_stk (n : Byte) : (s.setSp n).stk = s.stk := rfl
@[simp] theorem State.setSp_dt (n : Byte) : (s.setSp n).dt = s.dt := rfl
@[simp] theorem State.setSp_st (n : Byte) : (s.setSp n).st = s.st := rfl
@[simp] theorem State.setSp_fb (n : Byte) : (s.setSp n).fb = s.fb := rfl
@[simp] theorem State.setSp_nr (n : Byte) : (s.setSp n).nr = s.nr := rfl
@[simp] theorem State.setSp_key (n : Byte) : (s.setSp n).key = s.key := rfl
@[simp] theorem State.setSp_mem (n : Byte) : (s.setSp n).mem = s.mem := rfl
@[simp] theorem State.setSp_readV (n : Byte) (z : Reg) : (s.setSp n).readV z = s.readV z := rfl
@[simp] theorem State.setSp_readStk (n : Byte) (j : Fin 16) : (s.setSp n).readStk j = s.readStk j := rfl
@[simp] theorem State.setSp_readKey (n : Byte) (j : Fin 16) : (s.setSp n).readKey j = s.readKey j := rfl
@[simp] theorem State.setSp_readByte (n : Byte) (a : Nat) : (s.setSp n).readByte a = s.readByte a := rfl

/-! ## `writeStk` -/

@[simp] theorem State.writeStk_v (k : Fin 16) (w : Word) : (s.writeStk k w).v = s.v := rfl
@[simp] theorem State.writeStk_i (k : Fin 16) (w : Word) : (s.writeStk k w).i = s.i := rfl
@[simp] theorem State.writeStk_pc (k : Fin 16) (w : Word) : (s.writeStk k w).pc = s.pc := rfl
@[simp] theorem State.writeStk_sp (k : Fin 16) (w : Word) : (s.writeStk k w).sp = s.sp := rfl
@[simp] theorem State.writeStk_stk (k : Fin 16) (w : Word) : (s.writeStk k w).stk = s.stk.set k w := rfl
@[simp] theorem State.writeStk_dt (k : Fin 16) (w : Word) : (s.writeStk k w).dt = s.dt := rfl
@[simp] theorem State.writeStk_st (k : Fin 16) (w : Word) : (s.writeStk k w).st = s.st := rfl
@[simp] theorem State.writeStk_fb (k : Fin 16) (w : Word) : (s.writeStk k w).fb = s.fb := rfl
@[simp] theorem State.writeStk_nr (k : Fin 16) (w : Word) : (s.writeStk k w).nr = s.nr := rfl
@[simp] theorem State.writeStk_key (k : Fin 16) (w : Word) : (s.writeStk k w).key = s.key := rfl
@[simp] theorem State.writeStk_mem (k : Fin 16) (w : Word) : (s.writeStk k w).mem = s.mem := rfl
@[simp] theorem State.writeStk_readV (k : Fin 16) (w : Word) (z : Reg) : (s.writeStk k w).readV z = s.readV z := rfl
@[simp] theorem State.writeStk_readKey (k : Fin 16) (w : Word) (j : Fin 16) : (s.writeStk k w).readKey j = s.readKey j := rfl
@[simp] theorem State.writeStk_readByte (k : Fin 16) (w : Word) (a : Nat) : (s.writeStk k w).readByte a = s.readByte a := rfl

/-! ## `setDt` -/

@[simp] theorem State.setDt_v (n : Byte) : (s.setDt n).v = s.v := rfl
@[simp] theorem State.setDt_i (n : Byte) : (s.setDt n).i = s.i := rfl
@[simp] theorem State.setDt_pc (n : Byte) : (s.setDt n).pc = s.pc := rfl
@[simp] theorem State.setDt_sp (n : Byte) : (s.setDt n).sp = s.sp := rfl
@[simp] theorem State.setDt_stk (n : Byte) : (s.setDt n).stk = s.stk := rfl
@[simp] theorem State.setDt_dt (n : Byte) : (s.setDt n).dt = n := rfl
@[simp] theorem State.setDt_st (n : Byte) : (s.setDt n).st = s.st := rfl
@[simp] theorem State.setDt_fb (n : Byte) : (s.setDt n).fb = s.fb := rfl
@[simp] theorem State.setDt_nr (n : Byte) : (s.setDt n).nr = s.nr := rfl
@[simp] theorem State.setDt_key (n : Byte) : (s.setDt n).key = s.key := rfl
@[simp] theorem State.setDt_mem (n : Byte) : (s.setDt n).mem = s.mem := rfl
@[simp] theorem State.setDt_readV (n : Byte) (z : Reg) : (s.setDt n).readV z = s.readV z := rfl
@[simp] theorem State.setDt_readStk (n : Byte) (j : Fin 16) : (s.setDt n).readStk j = s.readStk j := rfl
@[simp] theorem State.setDt_readKey (n : Byte) (j : Fin 16) : (s.setDt n).readKey j = s.readKey j := rfl
@[simp] theorem State.setDt_readByte (n : Byte) (a : Nat) : (s.setDt n).readByte a = s.readByte a := rfl

/-! ## `setSt` -/

@[simp] theorem State.setSt_v (n : Byte) : (s.setSt n).v = s.v := rfl
@[simp] theorem State.setSt_i (n : Byte) : (s.setSt n).i = s.i := rfl
@[simp] theorem State.setSt_pc (n : Byte) : (s.setSt n).pc = s.pc := rfl
@[simp] theorem State.setSt_sp (n : Byte) : (s.setSt n).sp = s.sp := rfl
@[simp] theorem State.setSt_stk (n : Byte) : (s.setSt n).stk = s.stk := rfl
@[simp] theorem State.setSt_dt (n : Byte) : (s.setSt n).dt = s.dt := rfl
@[simp] theorem State.setSt_st (n : Byte) : (s.setSt n).st = n := rfl
@[simp] theorem State.setSt_fb (n : Byte) : (s.setSt n).fb = s.fb := rfl
@[simp] theorem State.setSt_nr (n : Byte) : (s.setSt n).nr = s.nr := rfl
@[simp] theorem State.setSt_key (n : Byte) : (s.setSt n).key = s.key := rfl
@[simp] theorem State.setSt_mem (n : Byte) : (s.setSt n).mem = s.mem := rfl
@[simp] theorem State.setSt_readV (n : Byte) (z : Reg) : (s.setSt n).readV z = s.readV z := rfl
@[simp] theorem State.setSt_readStk (n : Byte) (j : Fin 16) : (s.setSt n).readStk j = s.readStk j := rfl
@[simp] theorem State.setSt_readKey (n : Byte) (j : Fin 16) : (s.setSt n).readKey j = s.readKey j := rfl
@[simp] theorem State.setSt_readByte (n : Byte) (a : Nat) : (s.setSt n).readByte a = s.readByte a := rfl

/-! ## `setFb` -/

@[simp] theorem State.setFb_v (f : Framebuffer) : (s.setFb f).v = s.v := rfl
@[simp] theorem State.setFb_i (f : Framebuffer) : (s.setFb f).i = s.i := rfl
@[simp] theorem State.setFb_pc (f : Framebuffer) : (s.setFb f).pc = s.pc := rfl
@[simp] theorem State.setFb_sp (f : Framebuffer) : (s.setFb f).sp = s.sp := rfl
@[simp] theorem State.setFb_stk (f : Framebuffer) : (s.setFb f).stk = s.stk := rfl
@[simp] theorem State.setFb_dt (f : Framebuffer) : (s.setFb f).dt = s.dt := rfl
@[simp] theorem State.setFb_st (f : Framebuffer) : (s.setFb f).st = s.st := rfl
@[simp] theorem State.setFb_fb (f : Framebuffer) : (s.setFb f).fb = f := rfl
@[simp] theorem State.setFb_nr (f : Framebuffer) : (s.setFb f).nr = s.nr := rfl
@[simp] theorem State.setFb_key (f : Framebuffer) : (s.setFb f).key = s.key := rfl
@[simp] theorem State.setFb_mem (f : Framebuffer) : (s.setFb f).mem = s.mem := rfl
@[simp] theorem State.setFb_readV (f : Framebuffer) (z : Reg) : (s.setFb f).readV z = s.readV z := rfl
@[simp] theorem State.setFb_readStk (f : Framebuffer) (j : Fin 16) : (s.setFb f).readStk j = s.readStk j := rfl
@[simp] theorem State.setFb_readKey (f : Framebuffer) (j : Fin 16) : (s.setFb f).readKey j = s.readKey j := rfl
@[simp] theorem State.setFb_readByte (f : Framebuffer) (a : Nat) : (s.setFb f).readByte a = s.readByte a := rfl

/-! ## `setNr` -/

@[simp] theorem State.setNr_v (b : Bool) : (s.setNr b).v = s.v := rfl
@[simp] theorem State.setNr_i (b : Bool) : (s.setNr b).i = s.i := rfl
@[simp] theorem State.setNr_pc (b : Bool) : (s.setNr b).pc = s.pc := rfl
@[simp] theorem State.setNr_sp (b : Bool) : (s.setNr b).sp = s.sp := rfl
@[simp] theorem State.setNr_stk (b : Bool) : (s.setNr b).stk = s.stk := rfl
@[simp] theorem State.setNr_dt (b : Bool) : (s.setNr b).dt = s.dt := rfl
@[simp] theorem State.setNr_st (b : Bool) : (s.setNr b).st = s.st := rfl
@[simp] theorem State.setNr_fb (b : Bool) : (s.setNr b).fb = s.fb := rfl
@[simp] theorem State.setNr_nr (b : Bool) : (s.setNr b).nr = b := rfl
@[simp] theorem State.setNr_key (b : Bool) : (s.setNr b).key = s.key := rfl
@[simp] theorem State.setNr_mem (b : Bool) : (s.setNr b).mem = s.mem := rfl
@[simp] theorem State.setNr_readV (b : Bool) (z : Reg) : (s.setNr b).readV z = s.readV z := rfl
@[simp] theorem State.setNr_readStk (b : Bool) (j : Fin 16) : (s.setNr b).readStk j = s.readStk j := rfl
@[simp] theorem State.setNr_readKey (b : Bool) (j : Fin 16) : (s.setNr b).readKey j = s.readKey j := rfl
@[simp] theorem State.setNr_readByte (b : Bool) (a : Nat) : (s.setNr b).readByte a = s.readByte a := rfl

/-! ## `writeKey` -/

@[simp] theorem State.writeKey_v (k : Fin 16) (b : Bool) : (s.writeKey k b).v = s.v := rfl
@[simp] theorem State.writeKey_i (k : Fin 16) (b : Bool) : (s.writeKey k b).i = s.i := rfl
@[simp] theorem State.writeKey_pc (k : Fin 16) (b : Bool) : (s.writeKey k b).pc = s.pc := rfl
@[simp] theorem State.writeKey_sp (k : Fin 16) (b : Bool) : (s.writeKey k b).sp = s.sp := rfl
@[simp] theorem State.writeKey_stk (k : Fin 16) (b : Bool) : (s.writeKey k b).stk = s.stk := rfl
@[simp] theorem State.writeKey_dt (k : Fin 16) (b : Bool) : (s.writeKey k b).dt = s.dt := rfl
@[simp] theorem State.writeKey_st (k : Fin 16) (b : Bool) : (s.writeKey k b).st = s.st := rfl
@[simp] theorem State.writeKey_fb (k : Fin 16) (b : Bool) : (s.writeKey k b).fb = s.fb := rfl
@[simp] theorem State.writeKey_nr (k : Fin 16) (b : Bool) : (s.writeKey k b).nr = s.nr := rfl
@[simp] theorem State.writeKey_key (k : Fin 16) (b : Bool) : (s.writeKey k b).key = s.key.set k b := rfl
@[simp] theorem State.writeKey_mem (k : Fin 16) (b : Bool) : (s.writeKey k b).mem = s.mem := rfl
@[simp] theorem State.writeKey_readV (k : Fin 16) (b : Bool) (z : Reg) : (s.writeKey k b).readV z = s.readV z := rfl
@[simp] theorem State.writeKey_readStk (k : Fin 16) (b : Bool) (j : Fin 16) : (s.writeKey k b).readStk j = s.readStk j := rfl
@[simp] theorem State.writeKey_readByte (k : Fin 16) (b : Bool) (a : Nat) : (s.writeKey k b).readByte a = s.readByte a := rfl

/-! ## `setMem` -/

@[simp] theorem State.setMem_v (m : Memory) : (s.setMem m).v = s.v := rfl
@[simp] theorem State.setMem_i (m : Memory) : (s.setMem m).i = s.i := rfl
@[simp] theorem State.setMem_pc (m : Memory) : (s.setMem m).pc = s.pc := rfl
@[simp] theorem State.setMem_sp (m : Memory) : (s.setMem m).sp = s.sp := rfl
@[simp] theorem State.setMem_stk (m : Memory) : (s.setMem m).stk = s.stk := rfl
@[simp] theorem State.setMem_dt (m : Memory) : (s.setMem m).dt = s.dt := rfl
@[simp] theorem State.setMem_st (m : Memory) : (s.setMem m).st = s.st := rfl
@[simp] theorem State.setMem_fb (m : Memory) : (s.setMem m).fb = s.fb := rfl
@[simp] theorem State.setMem_nr (m : Memory) : (s.setMem m).nr = s.nr := rfl
@[simp] theorem State.setMem_key (m : Memory) : (s.setMem m).key = s.key := rfl
@[simp] theorem State.setMem_mem (m : Memory) : (s.setMem m).mem = m := rfl
@[simp] theorem State.setMem_readV (m : Memory) (z : Reg) : (s.setMem m).readV z = s.readV z := rfl
@[simp] theorem State.setMem_readStk (m : Memory) (j : Fin 16) : (s.setMem m).readStk j = s.readStk j := rfl
@[simp] theorem State.setMem_readKey (m : Memory) (j : Fin 16) : (s.setMem m).readKey j = s.readKey j := rfl

/-! ## A read of the field written -/

@[simp] theorem State.writeV_readV (x : Reg) (b : Byte) (z : Reg) :
    (s.writeV x b).readV z = if z = x then b else s.readV z := by
  simp only [State.readV, State.writeV, Fin.getElem_fin, Vector.getElem_set, Fin.ext_iff, eq_comm]

@[simp] theorem State.writeStk_readStk (k : Fin 16) (w : Word) (j : Fin 16) :
    (s.writeStk k w).readStk j = if j = k then w else s.readStk j := by
  simp only [State.readStk, State.writeStk, Fin.getElem_fin, Vector.getElem_set, Fin.ext_iff, eq_comm]

@[simp] theorem State.writeKey_readKey (k : Fin 16) (b : Bool) (j : Fin 16) :
    (s.writeKey k b).readKey j = if j = k then b else s.readKey j := by
  simp only [State.readKey, State.writeKey, Fin.getElem_fin, Vector.getElem_set, Fin.ext_iff, eq_comm]

@[simp] theorem State.setMem_readByte (m : Memory) (a : Nat) : (s.setMem m).readByte a = byteAt m a := rfl

/-! ## The combined writes -/

@[simp] theorem State.nextPc_eq : s.nextPc = s.pc + 2 := rfl
@[simp] theorem State.advance_eq : s.advance = s.setPc (s.pc + 2) := rfl
@[simp] theorem State.skipIf_eq (c : Bool) : s.skipIf c = s.setPc (s.pc + if c then 4 else 2) := by
  cases c <;> rfl
@[simp] theorem State.jump_eq (nnn : BitVec 12) : s.jump nnn = s.setPc (nnn.setWidth 16) := rfl
@[simp] theorem State.loadV_eq (x : Reg) (b : Byte) : s.loadV x b = (s.writeV x b).advance := rfl
@[simp] theorem State.writeFlagAndResult_flagFirst (x : Reg) (f r : Byte) :
    s.writeFlagAndResult .flagFirst x f r = (s.writeV regF f).writeV x r := rfl
@[simp] theorem State.writeFlagAndResult_flagLast (x : Reg) (f r : Byte) :
    s.writeFlagAndResult .flagLast x f r = (s.writeV x r).writeV regF f := rfl

end Sys2Proof.Machine
end

