-- ==== Sys2Proof/Laws/Memory.lean ====
section
/-! SUPPORT. Memory's operations: what each can do, and that each keeps the canonical form. -/

namespace Sys2Proof.Machine

/-- The cases of `MemRead`. -/
theorem memRead_cases (m : Memory) (a : Nat) :
    (4096 ≤ a ∧ memRead m a = .error (.outOfBoundsAccess a)) ∨ (a < 4096 ∧ memRead m a = .ok (byteAt m a)) := by
  unfold memRead
  by_cases h : 4096 ≤ a
  · exact .inl ⟨h, by simp [h]⟩
  · exact .inr ⟨by omega, by simp [h]⟩

/-- The cases of `MemWrite`. -/
theorem memWrite_cases (m : Memory) (a : Nat) (b : Byte) :
    (4096 ≤ a ∧ memWrite m a b = .error (.outOfBoundsAccess a)) ∨ (a < 4096 ∧ memWrite m a b = .ok (putByte m a b)) := by
  unfold memWrite
  by_cases h : 4096 ≤ a
  · exact .inl ⟨h, by simp [h]⟩
  · exact .inr ⟨by omega, by simp [h]⟩

/-- The canonical form of a list with a first cell. -/
theorem memWfFrom_cons {lo a : Nat} {b : Byte} {m : Memory} :
    memWfFrom lo ((a, b) :: m) = true ↔ lo ≤ a ∧ a < 4096 ∧ b ≠ unlistedByte a ∧ memWfFrom (a + 1) m = true := by
  simp only [memWfFrom, Bool.and_eq_true, decide_eq_true_eq, bne_iff_ne, ne_eq, memSize_eq, and_assoc]

/-- A canonical form from some address is one from any lower address. -/
theorem memWfFrom_mono {lo lo' : Nat} {m : Memory} (hl : lo' ≤ lo) (h : memWfFrom lo m = true) :
    memWfFrom lo' m = true := by
  cases m with
  | nil => rfl
  | cons c m =>
    obtain ⟨h1, h2, h3, h4⟩ := memWfFrom_cons.1 h
    exact memWfFrom_cons.2 ⟨by omega, h2, h3, h4⟩

/-- A write at or above the form's lowest address keeps the canonical form. -/
theorem putByte_wfFrom {m : Memory} {lo a : Nat} {b : Byte} (hl : lo ≤ a) (ha : a < 4096)
    (h : memWfFrom lo m = true) : memWfFrom lo (putByte m a b) = true := by
  induction m generalizing lo with
  | nil =>
    unfold putByte
    split
    · rfl
    · exact memWfFrom_cons.2 ⟨hl, ha, ‹_›, rfl⟩
  | cons c m ih =>
    obtain ⟨h1, h2, h3, h4⟩ := memWfFrom_cons.1 h
    unfold putByte
    split
    · split
      · exact h
      · exact memWfFrom_cons.2 ⟨hl, ha, ‹_›, memWfFrom_cons.2 ⟨by omega, h2, h3, h4⟩⟩
    · split
      · subst a
        split
        · exact memWfFrom_mono (by omega) h4
        · exact memWfFrom_cons.2 ⟨h1, h2, ‹_›, h4⟩
      · exact memWfFrom_cons.2 ⟨h1, h2, h3, ih (by omega) h4⟩

/-- `MEM[a] <- b` keeps the canonical form. -/
theorem putByte_wf {m : Memory} {a : Nat} (b : Byte) (ha : a < 4096) (h : Memory.wf m = true) :
    Memory.wf (putByte m a b) = true := putByte_wfFrom (Nat.zero_le a) ha h

/-- `MemWrite` keeps the canonical form. -/
theorem memWrite_wf {m m' : Memory} {a : Nat} {b : Byte} (h : Memory.wf m = true) (hw : memWrite m a b = .ok m') :
    Memory.wf m' = true := by
  obtain ⟨-, he⟩ | ⟨ha, he⟩ := memWrite_cases m a b <;> rw [he] at hw
  · cases hw
  · cases hw; exact putByte_wf b ha h

/-- Writing bytes one after the other keeps the canonical form. -/
theorem putBytes_wf {m : Memory} (h : Memory.wf m = true) (a : Nat) (bs : List Byte) :
    Memory.wf (putBytes m a bs) = true := by
  induction bs generalizing a with
  | nil => exact h
  | cons b bs ih =>
    unfold putBytes
    split
    · exact h
    · exact putByte_wf b (by simp_all) (ih (a + 1))

/-- Placing a word in memory keeps the canonical form. -/
theorem withWordAt_wf {m : Memory} (h : Memory.wf m = true) (a nbits w : Nat) :
    Memory.wf (withWordAt m a nbits w) = true := putBytes_wf h a _

/-- Memory after reset is in canonical form. -/
theorem reset_mem_wf : Memory.wf State.reset.mem = true := rfl

end Sys2Proof.Machine
end

