-- ==== Sys2Proof/Laws/Ops.lean ====
section
/-! SUPPORT. What each shared operation can do, said once. -/

namespace Sys2Proof.Machine

/-- Pushing a return address: the stack overflows, or the entry at `SP` is written and `SP` counts it. -/
theorem pushReturn_cases (s : State) (a : Word) :
    (16 ≤ s.sp.toNat ∧ pushReturn s a = .fault .stackOverflow) ∨
    ∃ h : s.sp.toNat < 16, pushReturn s a = .next ((s.writeStk ⟨s.sp.toNat, h⟩ a).setSp (s.sp + 1)) := by
  unfold pushReturn
  by_cases h : s.sp.toNat < 16
  · exact .inr ⟨h, by simp [h]⟩
  · exact .inl ⟨by omega, by simp [h]⟩

/-- Popping a return address: the stack underflows, or `SP` is beyond the stack, or the top entry goes to `PC`. -/
theorem popReturn_cases (s : State) :
    (s.sp.toNat = 0 ∧ popReturn s = .fault .stackUnderflow) ∨
    (16 < s.sp.toNat ∧ popReturn s = .refused .stackPointerBeyondStack) ∨
    ∃ h : s.sp.toNat - 1 < 16, 0 < s.sp.toNat ∧
      popReturn s = .next ((s.setSp (s.sp - 1)).setPc (s.readStk ⟨s.sp.toNat - 1, h⟩)) := by
  unfold popReturn
  by_cases h0 : s.sp = 0
  · exact .inl ⟨by simp [h0], by simp [h0]⟩
  · have hp : s.sp.toNat ≠ 0 := fun h => h0 (BitVec.eq_of_toNat_eq (by simpa using h))
    by_cases h : s.sp.toNat - 1 < 16
    · exact .inr (.inr ⟨h, by omega, by rw [if_neg h0, dif_pos h]⟩)
    · exact .inr (.inl ⟨by omega, by rw [if_neg h0, dif_neg h]⟩)

/-- `CALL`: the stack overflows, or the address of the next instruction is pushed and `PC` is the target. -/
theorem execCall_cases (nnn : BitVec 12) (s : State) :
    (16 ≤ s.sp.toNat ∧ execCall nnn s = .fault .stackOverflow) ∨
    ∃ h : s.sp.toNat < 16, execCall nnn s =
      .next (((s.writeStk ⟨s.sp.toNat, h⟩ (s.pc + 2)).setSp (s.sp + 1)).jump nnn) := by
  obtain ⟨h, hp⟩ | ⟨h, hp⟩ := pushReturn_cases s s.nextPc
  · exact .inl ⟨h, by rw [execCall, hp]⟩
  · exact .inr ⟨h, by rw [execCall, hp]; rfl⟩

/-- The fetch: the first address outside memory, or the two bytes at `PC`. -/
theorem fetch_cases (s : State) :
    (4096 ≤ s.pc.toNat ∧ fetch s = .error (.outOfBoundsAccess s.pc.toNat)) ∨
    (s.pc.toNat = 4095 ∧ fetch s = .error (.outOfBoundsAccess 4096)) ∨
    (s.pc.toNat < 4095 ∧
      fetch s = .ok (joinBytes (s.readByte s.pc.toNat) (s.readByte (s.pc.toNat + 1)))) := by
  unfold fetch
  by_cases h : 4096 ≤ s.pc.toNat
  · exact .inl ⟨h, by simp [h, Nat.le_succ_of_le h]⟩
  · by_cases h' : s.pc.toNat = 4095
    · exact .inr (.inl ⟨h', by simp [h']⟩)
    · exact .inr (.inr ⟨by omega, by simp; omega⟩)

/-- The bound check of a sprite: the first address outside memory, or none. -/
theorem spriteFault_cases (base n : Nat) :
    (1 ≤ n ∧ 4096 ≤ base ∧ spriteFault base n = some (.outOfBoundsAccess base)) ∨
    (1 ≤ n ∧ base < 4096 ∧ 4096 < base + n ∧ spriteFault base n = some (.outOfBoundsAccess 4096)) ∨
    ((n = 0 ∨ base + n ≤ 4096) ∧ spriteFault base n = none) := by
  unfold spriteFault
  by_cases hn : 1 ≤ n
  · by_cases hb : 4096 ≤ base
    · exact .inl ⟨hn, hb, by rw [if_pos ⟨hn, by simp; omega⟩]; simp [hb]⟩
    · by_cases hs : 4096 < base + n
      · exact .inr (.inl ⟨hn, by omega, hs, by rw [if_pos ⟨hn, by simp; omega⟩]; simp [hb]⟩)
      · exact .inr (.inr ⟨by omega, by rw [if_neg (by simp; omega)]⟩)
  · exact .inr (.inr ⟨by omega, by rw [if_neg (by omega)]⟩)

/-- A pixel after one pixel is written. -/
@[simp] theorem pixel_setPixel (fb : Framebuffer) (x x' : Fin 64) (y y' : Fin 32) (b : Bool) :
    pixel (setPixel fb x y b) x' y' = if x' = x ∧ y' = y then b else pixel fb x' y' := by
  simp only [pixel, setPixel, Fin.getElem_fin, Vector.getElem_set, Fin.ext_iff]
  by_cases hx : x.val = x'.val
  · by_cases hy : y.val = y'.val
    · simp [hx, hy]
    · simp [hx, hy, Ne.symm hy]
  · simp [hx, Ne.symm hx]

/-- Every pixel of the blank screen is 0. -/
@[simp] theorem pixel_blankScreen (x : Fin 64) (y : Fin 32) : pixel blankScreen x y = false := by
  simp [pixel, blankScreen]

theorem screenX_eq (x0 : Byte) (b : Nat) : screenX x0 b = Fin.ofNat 64 (x0.toNat + b) := rfl

theorem screenY_eq (y0 : Byte) (r : Nat) : screenY y0 r = Fin.ofNat 32 (y0.toNat + r) := rfl

/-- The frame the host reads: pixel (`n` mod 64, `n / 64` mod 32) at index `n`. -/
theorem framePixels_eq (s : State) :
    framePixels s = (List.range 2048).map fun n => pixel s.fb (Fin.ofNat 64 n) (Fin.ofNat 32 (n / 64)) := rfl

/-- One sprite bit: nothing, or its pixel toggled and its old value added to the collisions. -/
theorem drawBit_cases (x0 y0 : Byte) (r : Nat) (row : Byte) (p : Framebuffer × Bool) (b : Nat) :
    (spriteBit row b = false ∧ drawBit x0 y0 r row p b = p) ∨
    (spriteBit row b = true ∧ drawBit x0 y0 r row p b =
      (setPixel p.1 (screenX x0 b) (screenY y0 r) (!pixel p.1 (screenX x0 b) (screenY y0 r)),
        p.2 || pixel p.1 (screenX x0 b) (screenY y0 r))) := by
  unfold drawBit
  cases h : spriteBit row b
  · exact .inl ⟨rfl, by simp⟩
  · exact .inr ⟨rfl, by simp⟩

/-- A `load`: the image is too large, or everything is reset and the image copied. -/
theorem loadImage_cases (image : List Byte) :
    (3584 < image.length ∧ loadImage image = .error (.programTooLarge image.length)) ∨
    (image.length ≤ 3584 ∧ loadImage image = .ok (State.reset.setMem (putBytes [] 512 image))) := by
  unfold loadImage
  by_cases h : 3584 < image.length
  · exact .inl ⟨h, by simp [h]⟩
  · exact .inr ⟨by omega, by simp [h]; rfl⟩

/-- A `debug_write`: refused, or a value within the item's bound is stored. -/
theorem debugWrite_cases (item : Item) (n : Nat) (s : State) :
    debugWrite item n s = .error .debugWriteRefused ∨
    ∃ max, debugMax item = some max ∧ n ≤ max ∧ debugWrite item n s = .ok (debugStore item n s) := by
  unfold debugWrite
  cases h : debugMax item with
  | none => exact .inl rfl
  | some max =>
    by_cases hn : n ≤ max
    · exact .inr ⟨max, rfl, hn, by simp [hn]⟩
    · exact .inl (by simp [hn])

end Sys2Proof.Machine
end

