-- ==== Sys2Proof/Laws/PerInstr.lean ====
section
/-! SUPPORT. A law per instruction, about the instruction as syntax. -/

namespace Sys2Proof.Laws

/-- The top nibble of an instruction's word is its opcode family (30_encoding.md R92, R97). -/
def FamilyNibble.Statement (i : Instr) : Prop := fieldFamily (encode i) = family i

theorem fieldFamily_formatA (f : BitVec 4) (n : BitVec 12) : fieldFamily (formatA f n) = f := by
  apply BitVec.eq_of_toNat_eq
  rw [fieldFamily_toNat, formatA_toNat]; omega

theorem fieldFamily_formatXI (f : BitVec 4) (x : Reg) (n : Byte) : fieldFamily (formatXI f x n) = f := by
  apply BitVec.eq_of_toNat_eq
  rw [fieldFamily_toNat, formatXI_toNat]; omega

theorem fieldFamily_formatXYN (f : BitVec 4) (x y : Reg) (n : BitVec 4) : fieldFamily (formatXYN f x y n) = f := by
  apply BitVec.eq_of_toNat_eq
  rw [fieldFamily_toNat, formatXYN_toNat]; omega

theorem FamilyNibble.cls : FamilyNibble.Statement .cls := by unfold FamilyNibble.Statement; decide
theorem FamilyNibble.ret : FamilyNibble.Statement .ret := by unfold FamilyNibble.Statement; decide
theorem FamilyNibble.jp (nnn : BitVec 12) : FamilyNibble.Statement (.jp nnn) := fieldFamily_formatA _ _
theorem FamilyNibble.call (nnn : BitVec 12) : FamilyNibble.Statement (.call nnn) := fieldFamily_formatA _ _
theorem FamilyNibble.skeqi (x : Reg) (nn : Byte) : FamilyNibble.Statement (.skeqi x nn) := fieldFamily_formatXI _ _ _
theorem FamilyNibble.sknei (x : Reg) (nn : Byte) : FamilyNibble.Statement (.sknei x nn) := fieldFamily_formatXI _ _ _
theorem FamilyNibble.skeqr (x y : Reg) : FamilyNibble.Statement (.skeqr x y) := fieldFamily_formatXYN _ _ _ _
theorem FamilyNibble.ldi (x : Reg) (nn : Byte) : FamilyNibble.Statement (.ldi x nn) := fieldFamily_formatXI _ _ _
theorem FamilyNibble.addi (x : Reg) (nn : Byte) : FamilyNibble.Statement (.addi x nn) := fieldFamily_formatXI _ _ _
theorem FamilyNibble.mov (x y : Reg) : FamilyNibble.Statement (.mov x y) := fieldFamily_formatXYN _ _ _ _
theorem FamilyNibble.or (x y : Reg) : FamilyNibble.Statement (.or x y) := fieldFamily_formatXYN _ _ _ _
theorem FamilyNibble.and (x y : Reg) : FamilyNibble.Statement (.and x y) := fieldFamily_formatXYN _ _ _ _
theorem FamilyNibble.xor (x y : Reg) : FamilyNibble.Statement (.xor x y) := fieldFamily_formatXYN _ _ _ _
theorem FamilyNibble.add (x y : Reg) : FamilyNibble.Statement (.add x y) := fieldFamily_formatXYN _ _ _ _
theorem FamilyNibble.sub (x y : Reg) : FamilyNibble.Statement (.sub x y) := fieldFamily_formatXYN _ _ _ _
theorem FamilyNibble.draw (x y : Reg) (n : BitVec 4) : FamilyNibble.Statement (.draw x y n) :=
  fieldFamily_formatXYN _ _ _ _
theorem FamilyNibble.skp (x : Reg) : FamilyNibble.Statement (.skp x) := fieldFamily_formatXI _ _ _
theorem FamilyNibble.sknp (x : Reg) : FamilyNibble.Statement (.sknp x) := fieldFamily_formatXI _ _ _

end Sys2Proof.Laws
end

