-- ==== Sys2Proof/Laws/Step.lean ====
section
/-! SUPPORT. What a step can do, said once. -/

namespace Sys2Proof.Machine

/-- A step: the fetch faults, or the word is reserved, or the decoded instruction runs. -/
theorem step_cases (s : State) :
    (∃ f, fetch s = .error f ∧ step s = .fault f) ∨
    (∃ w e, fetch s = .ok w ∧ decodeWord w = .error e ∧ step s = .fault (.unknownOpcode w s.pc)) ∨
    (∃ w i, fetch s = .ok w ∧ decodeWord w = .ok i ∧ step s = exec i s) := by
  cases hf : fetch s with
  | error f => exact .inl ⟨f, rfl, by simp [step, stepCycle, hf]⟩
  | ok w =>
    cases hd : decodeWord w with
    | error e => exact .inr (.inl ⟨w, e, rfl, hd, by simp [step, stepCycle, hf, hd]⟩)
    | ok i => exact .inr (.inr ⟨w, i, rfl, hd, by simp [step, stepCycle, hf, hd]⟩)

/-- A step that ends in a next state ran the decoded instruction, fetched from below the last byte of memory. -/
theorem step_next {s t : State} (h : step s = .next t) :
    ∃ w i, s.pc.toNat < 4095 ∧ fetch s = .ok w ∧ decodeWord w = .ok i ∧ exec i s = .next t := by
  obtain ⟨f, -, hs⟩ | ⟨w, e, -, -, hs⟩ | ⟨w, i, hf, hd, hs⟩ := step_cases s
  · rw [hs] at h; cases h
  · rw [hs] at h; cases h
  · refine ⟨w, i, ?_, hf, hd, hs ▸ h⟩
    obtain ⟨-, he⟩ | ⟨-, he⟩ | ⟨hp, -⟩ := fetch_cases s
    · rw [he] at hf; cases hf
    · rw [he] at hf; cases hf
    · exact hp

/-- `step` as an operation: the next state, or a fault with the state it leaves, or a refusal with nothing changed. -/
theorem stepOp_cases (p : Config.UnknownPolicy) (s : State) :
    (∃ t, step s = .next t ∧ stepOp p s = (.ok, t)) ∨
    (∃ f, step s = .fault f ∧ stepOp p s = (.fault f, stateAfterFault p f s)) ∨
    (∃ r, step s = .refused r ∧ stepOp p s = (.refused r, s)) := by
  unfold stepOp
  cases step s with
  | next t => exact .inl ⟨t, rfl, rfl⟩
  | fault f => exact .inr (.inl ⟨f, rfl, rfl⟩)
  | refused r => exact .inr (.inr ⟨r, rfl, rfl⟩)

/-- The state a fault leaves: the same, or under `skip` the same with `PC` past the unknown word. -/
theorem stateAfterFault_cases (p : Config.UnknownPolicy) (f : Fault) (s : State) :
    stateAfterFault p f s = s ∨
    (p = .skip ∧ (∃ w pc, f = .unknownOpcode w pc) ∧ stateAfterFault p f s = s.advance) := by
  cases f <;> cases p <;> first
    | exact .inl rfl
    | exact .inr ⟨rfl, ⟨_, _, rfl⟩, rfl⟩

end Sys2Proof.Machine
end

