-- ==== Sys2Proof/Tests/Slice0.lean ====
section
/-! SUPPORT. The model's own tests: expected results are those of 95_test_vectors.md and of the rules' examples (named in
each comment), or follow from a rule by hand. The witnesses at the end meet the hypotheses of the statements. -/

namespace Sys2Proof.Tests

open Sys2Proof Sys2Proof.Machine

/-! ## Helpers -/

/-- The next state of an outcome. -/
def nextOf : Result → Option State
  | .next s => some s
  | _ => none

/-- The fault of an outcome. -/
def faultOf : Result → Option Fault
  | .fault f => some f
  | _ => none

/-- One step of `s` with the word `w` placed at its `PC`, seen through `f`. -/
def after {α : Type} (s : State) (w : Nat) (f : State → α) : Option α := (nextOf (step (s.withFetchWord 16 w))).map f

/-- The fault of one step of `s` with the word `w` placed at its `PC`. -/
def faultAfter (s : State) (w : Nat) : Option Fault := faultOf (step (s.withFetchWord 16 w))

/-- The state after reset. -/
abbrev rs : State := State.reset

/-! ## WellFormed smoke tests: each check refuses an ill-formed term -/

theorem test_table_wellFormed : tableWellFormed opcodeTable = true := by decide
/-- A pattern bit outside the mask. -/
theorem test_row_refused : rowWellFormed ⟨"JP", 0x1001, 0xF000⟩ = false := by decide
/-- Two rows that both match 0x5010. -/
theorem test_overlap_refused : rowsDisjoint ⟨"SKEQR", 0x5000, 0xF00F⟩ ⟨"ANY5", 0x5000, 0xF000⟩ = false := by decide
theorem test_overlapping_table_refused :
    tableWellFormed [⟨"SKEQR", 0x5000, 0xF00F⟩, ⟨"ANY5", 0x5000, 0xF000⟩] = false := by decide
/-- The reserved words of V-FAULT-8, one for each check of a row's fixed bits. -/
theorem test_reserved_refused :
    ([0x0000, 0x00E1, 0x00EF, 0x0123, 0x5011, 0x501F, 0x8006, 0x8007, 0x800E, 0x801F] ++
      [0x9010, 0xA123, 0xB123, 0xC0FF, 0xE000, 0xE09F, 0xE1A0, 0xF007, 0xF065, 0xFFFF] : List Word).all
      (fun w => !wordLegal opcodeTable w) = true := by decide
/-- The valid words of V-FAULT-9. -/
theorem test_valid_legal :
    ([0x00E0, 0x1000, 0x2FFF, 0x3FFF, 0x4000, 0x5FF0, 0x6F00, 0x7FFF, 0x8FF0, 0x8FF1] ++
      [0x8FF2, 0x8FF3, 0x8FF4, 0x8FF5, 0xD000, 0xDFFF, 0xEF9E, 0xEFA1, 0x00EE] : List Word).all
      (wordLegal opcodeTable) = true := by decide

/-! ## Decoding: every constructor from a word written out from its encoding (30_encoding.md R96) -/

theorem test_decode_cls : decodeTableWord 16 0x00E0 = some .cls := by decide
theorem test_decode_ret : decodeTableWord 16 0x00EE = some .ret := by decide
theorem test_decode_jp : decodeTableWord 16 0x1206 = some (.jp 0x206) := by decide
theorem test_decode_call : decodeTableWord 16 0x220A = some (.call 0x20A) := by decide
theorem test_decode_skeqi : decodeTableWord 16 0x3F01 = some (.skeqi 15 0x01) := by decide
theorem test_decode_sknei : decodeTableWord 16 0x4211 = some (.sknei 2 0x11) := by decide
theorem test_decode_skeqr : decodeTableWord 16 0x5010 = some (.skeqr 0 1) := by decide
theorem test_decode_ldi : decodeTableWord 16 0x6A2C = some (.ldi 10 0x2C) := by decide
theorem test_decode_addi : decodeTableWord 16 0x730A = some (.addi 3 0x0A) := by decide
theorem test_decode_mov : decodeTableWord 16 0x8140 = some (.mov 1 4) := by decide
theorem test_decode_or : decodeTableWord 16 0x8011 = some (.or 0 1) := by decide
theorem test_decode_and : decodeTableWord 16 0x8012 = some (.and 0 1) := by decide
theorem test_decode_xor : decodeTableWord 16 0x8553 = some (.xor 5 5) := by decide
theorem test_decode_add : decodeTableWord 16 0x81F4 = some (.add 1 15) := by decide
theorem test_decode_sub : decodeTableWord 16 0x8235 = some (.sub 2 3) := by decide
theorem test_decode_draw : decodeTableWord 16 0xD015 = some (.draw 0 1 0x5) := by decide
theorem test_decode_skp : decodeTableWord 16 0xE09E = some (.skp 0) := by decide
theorem test_decode_sknp : decodeTableWord 16 0xE0A1 = some (.sknp 0) := by decide
theorem test_encode_draw : encode (.draw 0 1 0x5) = 0xD015 := by decide
theorem test_encode_sknp : encode (.sknp 3) = 0xE3A1 := by decide
theorem test_truncated : decode [0x00] = .error .truncated := by decide

/-! ## Control transfer -/

/-- V-CTRL-1. -/
theorem test_jp : after (rs.setPc 0x20C) 0x1206 (·.pc) = some 0x206 := by decide
/-- V-CTRL-5: a jump into the font fetches 0xF090, which is reserved. -/
theorem test_jp_font : faultOf (step (rs.setPc 0x050)) = some (.unknownOpcode 0xF090 0x050) := by decide
/-- V-CTRL-6. -/
theorem test_call : after (rs.setPc 0x202) 0x220A (fun s => (s.readStk 0, s.sp, s.pc)) = some (0x0204, 1, 0x20A) := by
  decide
/-- V-CTRL-9: the return address of a call at 0xFFE is 0x1000, not wrapped. -/
theorem test_call_top : after (rs.setPc 0xFFE) 0x2200 (fun s => (s.readStk 0, s.pc)) = some (0x1000, 0x200) := by decide
/-- V-CTRL-8. -/
theorem test_call_overflow : faultAfter (rs.setSp 16) 0x2400 = some .stackOverflow := by decide
/-- V-CTRL-10: no 2 is added, and the popped entry keeps its value. -/
theorem test_ret : after ((rs.setSp 1).writeStk 0 0x0204) 0x00EE (fun s => (s.sp, s.pc, s.readStk 0)) =
    some (0, 0x204, 0x0204) := by decide
/-- V-CTRL-12: with all 16 entries in use. -/
theorem test_ret_full : after ((rs.setSp 16).writeStk 15 0x0ABC) 0x00EE (fun s => (s.sp, s.pc)) = some (15, 0x0ABC) := by
  decide
/-- V-CTRL-11. -/
theorem test_ret_underflow : faultAfter rs 0x00EE = some .stackUnderflow := by decide

/-! ## Skips -/

/-- V-SKIP-9: all 8 bits are compared. -/
theorem test_skeqi : after (rs.writeV 0 0xFF) 0x30FF (·.pc) = some 0x204 := by decide
/-- V-SKIP-10. -/
theorem test_skeqi_not : after (rs.writeV 0 0x7F) 0x30FF (·.pc) = some 0x202 := by decide
/-- V-SKIP-3. -/
theorem test_sknei : after ((rs.writeV 2 0x10).setPc 0x300) 0x4211 (·.pc) = some 0x304 := by decide
/-- V-SKIP-4. -/
theorem test_sknei_not : after ((rs.writeV 2 0x10).setPc 0x300) 0x4210 (·.pc) = some 0x302 := by decide
/-- V-SKIP-5. -/
theorem test_skeqr : after ((rs.writeV 0 7).writeV 1 7) 0x5010 (·.pc) = some 0x204 := by decide
/-- V-SKIP-6. -/
theorem test_skeqr_not : after ((rs.writeV 0 7).writeV 1 8) 0x5010 (·.pc) = some 0x202 := by decide
/-- V-SKIP-11: a skip from 0xFFC does not wrap. -/
theorem test_skip_top : after (rs.setPc 0xFFC) 0x3000 (·.pc) = some 0x1000 := by decide
/-- V-KEY-5: the key is the low nibble of the register. -/
theorem test_skp : after ((rs.writeV 0 0x15).writeKey 5 true) 0xE09E (·.pc) = some 0x204 := by decide
/-- V-KEY-7: only the indexed key matters. -/
theorem test_skp_not : after (((rs.writeV 0 5).writeKey 4 true).writeKey 6 true) 0xE09E (·.pc) = some 0x202 := by decide
/-- V-KEY-3. -/
theorem test_sknp : after ((rs.writeV 0 5).setPc 0x206) 0xE0A1 (·.pc) = some 0x20A := by decide
/-- V-KEY-4. -/
theorem test_sknp_not : after (((rs.writeV 0 5).writeKey 5 true).setPc 0x206) 0xE0A1 (·.pc) = some 0x208 := by decide

/-! ## Load and ALU -/

/-- V-ALU-1. -/
theorem test_ldi : after rs 0x6A2C (fun s => (s.readV 10, s.pc)) = some (0x2C, 0x202) := by decide
/-- V-ALU-3. -/
theorem test_ldi_vf : after rs 0x6FFF (·.readV 15) = some 0xFF := by decide
/-- V-ALU-4 with `VF` marked: wraps, and `VF` is unaffected. -/
theorem test_addi : after ((rs.writeV 3 0xF0).writeV 15 0x5A) 0x7320 (fun s => (s.readV 3, s.readV 15)) =
    some (0x10, 0x5A) := by decide
/-- S2 for `X` = F: the sum, not a flag. -/
theorem test_addi_vf : after (rs.writeV 15 0xFF) 0x7F01 (·.readV 15) = some 0 := by decide
/-- V-ALU-9. -/
theorem test_mov : after (rs.writeV 4 0x99) 0x8140 (·.readV 1) = some 0x99 := by decide
/-- V-ALU-11. -/
theorem test_or : after ((rs.writeV 0 0xF0).writeV 1 0x3C) 0x8011 (·.readV 0) = some 0xFC := by decide
/-- V-ALU-17: logic operations never touch `VF`. -/
theorem test_or_flag : after ((rs.writeV 0 0x12).writeV 15 0x77) 0x8011 (·.readV 15) = some 0x77 := by decide
/-- V-ALU-12. -/
theorem test_and : after ((rs.writeV 0 0xF0).writeV 1 0x3C) 0x8012 (·.readV 0) = some 0x30 := by decide
/-- V-ALU-13. -/
theorem test_xor : after ((rs.writeV 0 0xF0).writeV 1 0x3C) 0x8013 (·.readV 0) = some 0xCC := by decide
/-- V-ALU-19: 255 is not above 255, and the old flag is overwritten. -/
theorem test_add : after (((rs.writeV 0 0xFE).writeV 1 1).writeV 15 1) 0x8014 (fun s => (s.readV 0, s.readV 15)) =
    some (0xFF, 0) := by decide
/-- V-ALU-33: the old `VF` is added, then `VF` gets the carry. -/
theorem test_add_vf : after ((rs.writeV 1 0xFF).writeV 15 2) 0x81F4 (fun s => (s.readV 1, s.readV 15)) =
    some (0x01, 1) := by decide
/-- V-ALU-25: a borrow clears the flag. -/
theorem test_sub : after ((rs.writeV 1 1).writeV 15 9) 0x8015 (fun s => (s.readV 0, s.readV 15)) = some (0xFF, 0) := by
  decide
/-- V-ALU-36: with `X` = F the result stays. -/
theorem test_sub_vf : after ((rs.writeV 15 3).writeV 1 5) 0x8F15 (·.readV 15) = some 0xFE := by decide
/-- V-ALU-35 under `flag_last`. -/
theorem test_flagLast : (rs.writeFlagAndResult .flagLast 15 1 0x02).readV 15 = 1 := by decide

/-! ## Display -/

/-- V-DRAW-1. -/
theorem test_cls : after ((rs.setFb (setPixel blankScreen 63 31 true)).writeV 15 7) 0x00E0
    (fun s => (pixel s.fb 63 31, s.nr, s.readV 15, s.pc)) = some (false, true, 7, 0x202) := by decide
/-- V-DRAW-7: coordinates mod 64 and mod 32, and the sprite wraps within its row. -/
theorem test_draw_wraps : after ((((rs.writeV 0 0xFF).writeV 1 0xFF).setI 0x202).setMem [(0x202, 0xFF)]) 0xD011
    (fun s => (pixel s.fb 63 31, pixel s.fb 0 31, pixel s.fb 6 31, pixel s.fb 7 31, s.readV 15)) =
    some (true, true, true, false, 0) := by decide
/-- V-DRAW-8: the coordinate is the old `VF`; the pixel goes off and `VF` gets the collision. -/
theorem test_draw_collision : after ((((rs.writeV 15 7).setI 0x202).setMem [(0x202, 0x80)]).setFb
    (setPixel blankScreen 7 0 true)) 0xDF01 (fun s => (pixel s.fb 7 0, s.readV 15, s.nr)) = some (false, 1, true) := by
  decide
/-- V-DRAW-10: no row, no fault. -/
theorem test_draw_zero_rows : after ((rs.setI 0xFFFF).writeV 15 9) 0xD000 (fun s => (s.readV 15, s.nr, s.pc)) =
    some (0, true, 0x202) := by decide
/-- V-DRAW-15 and V-DRAW-16. -/
theorem test_draw_faults : faultAfter (rs.setI 0x0FF2) 0xD00F = some (.outOfBoundsAccess 0x1000) ∧
    faultAfter (rs.setI 0x9000) 0xD001 = some (.outOfBoundsAccess 0x9000) := by decide

/-! ## Faults, policies and host operations -/

/-- V-FAULT-1, V-FAULT-4. -/
theorem test_fetch_faults : faultOf (step (rs.setPc 0xFFF)) = some (.outOfBoundsAccess 0x1000) ∧
    faultOf (step (rs.setPc 0xFFFF)) = some (.outOfBoundsAccess 0xFFFF) := by decide
/-- V-FAULT-6, V-FAULT-7. -/
theorem test_unknown_policies :
    (stepOp .halt (rs.withFetchWord 16 0x9010)).1 = .fault (.unknownOpcode 0x9010 0x200) ∧
    (stepOp .halt (rs.withFetchWord 16 0x9010)).2.pc = 0x200 ∧
    (stepOp .skip (rs.withFetchWord 16 0x9010)).1 = .fault (.unknownOpcode 0x9010 0x200) ∧
    (stepOp .skip (rs.withFetchWord 16 0x9010)).2.pc = 0x202 := by decide
/-- R200: the code of each kind. -/
theorem test_fault_codes : Fault.code (.outOfBoundsAccess 0) = 1 ∧ Fault.code .stackOverflow = 2 ∧
    Fault.code .stackUnderflow = 3 ∧ Fault.code (.unknownOpcode 0 0) = 4 ∧ Fault.code (.programTooLarge 0) = 5 := by
  decide
/-- V-TICK-3. -/
theorem test_tick : ((tickTimers ((rs.setDt 0xFF).setSt 1)).dt, (tickTimers ((rs.setDt 0xFF).setSt 1)).st) =
    (0xFE, 0) := by decide
/-- V-TICK-7. -/
theorem test_linear_index : linearPixel (setPixel blankScreen 2 1 true) 66 = true ∧
    linearPixel (setPixel blankScreen 2 1 true) 65 = false := by decide
/-- V-FAULT-16: the font after `load`. -/
theorem test_font : rs.readByte 0x050 = 0xF0 ∧ rs.readByte 0x051 = 0x90 ∧ rs.readByte 0x09F = 0x80 ∧
    rs.readByte 0x04F = 0 ∧ rs.readByte 0x0A0 = 0 := by decide
/-- P3's image lands at 0x200, an odd byte count being accepted. -/
theorem test_load : (loadImage [0x60, 0x3E, 0x61]).map (fun s => (s.readByte 0x200, s.readByte 0x202, s.readByte 0x203)) =
    .ok (0x60, 0x61, 0) := by decide

/-! ## Witnesses: states and operands that meet the hypotheses of the statements -/

/-- DecodeThenEncodeIsIdentity. -/
theorem test_witness_decoded : decodeWord 0x730A = .ok (.addi 3 0x0A) := by decide
/-- FetchReadsBigEndianWord and FetchBeyondMemoryFaults, at the values where they meet. -/
theorem test_witness_fetch : (rs.setPc 0xFFE).pc.toNat + 1 < 4096 ∧ 4096 ≤ (rs.setPc 0xFFF).pc.toNat + 1 ∧
    4096 ≤ (rs.setPc 0x1000).pc.toNat := by decide
/-- StepRunsDecodedInstruction. -/
theorem test_witness_step_runs : decode [(rs.withFetchWord 16 0x6A2C).readByte 0x200,
    (rs.withFetchWord 16 0x6A2C).readByte 0x201] = .ok (.ldi 10 0x2C) := by decide
/-- ReservedWordIsReported. -/
theorem test_witness_reserved : fetch rs = .ok 0x0000 ∧ decodeWord 0x0000 = .error (.unknownOpcode 0x0000) := by decide
/-- FaultingOperationChangesNothing, under both policies, and for a `load`. -/
theorem test_witness_faulting_operation : (operateLoaded .halt .step rs).1 = .fault (.unknownOpcode 0 0x200) ∧
    (operateLoaded .skip .step rs).1 = .fault (.unknownOpcode 0 0x200) := by decide
theorem test_witness_faulting_load : (operateLoaded .halt (.load (List.replicate 3585 0)) rs).1 =
    .fault (.programTooLarge 3585) := by
  rw [operateLoaded, loadImage, if_pos (by rw [List.length_replicate]; decide), List.length_replicate]
/-- OnlyRetCallDrawFault, each of its three cases. -/
theorem test_witness_exec_faults : faultOf (exec .ret rs) = some .stackUnderflow ∧
    faultOf (exec (.call 0x400) (rs.setSp 16)) = some .stackOverflow ∧
    faultOf (exec (.draw 0 0 2) (rs.setI 0xFFF)) = some (.outOfBoundsAccess 0x1000) := by decide
/-- InvariantStatesAreNeverRefused, StepKeepsInvariant, OperationKeepsInvariant, QuietMachineStaysQuiet. -/
theorem test_witness_inv : (rs.withFetchWord 16 0x2204).Inv ∧ (rs.withFetchWord 16 0x2204).Quiet ∧
    (nextOf (step (rs.withFetchWord 16 0x2204))).isSome = true := by decide
theorem test_witness_boot_inv : (Boot.loaded rs).Inv ∧ (Boot.loaded rs).Quiet ∧
    ∀ item n, Op.step ≠ .debugWrite item n := by
  refine ⟨?_, ?_, fun _ _ h => nomatch h⟩
  · change rs.Inv; decide
  · change rs.Quiet; decide
/-- AdvancedPcNeverWraps, for a skip at the top of memory. -/
theorem test_witness_advanced : fetch ((rs.setPc 0xFFC).withFetchWord 16 0x3000) = .ok 0x3000 ∧
    decodeWord 0x3000 = .ok (.skeqi 0 0) ∧ advancedPc (.skeqi 0 0) (rs.setPc 0xFFC) = some 0x1000 ∧
    (nextOf (step ((rs.setPc 0xFFC).withFetchWord 16 0x3000))).isSome = true := by decide
/-- RetPopsReturnAddress and RetBeyondStackIsRefused, at the values where their clauses meet. -/
theorem test_witness_ret : rs.sp = 0 ∧ (rs.setSp 1).sp.toNat = (0 : Fin 16).val + 1 ∧
    (rs.setSp 16).sp.toNat = (15 : Fin 16).val + 1 ∧ 16 < (rs.setSp 17).sp.toNat := by decide
/-- CallPushesReturnAddress, at the values where its clauses meet. -/
theorem test_witness_call : 16 ≤ (rs.setSp 16).sp.toNat ∧ (rs.setSp 15).sp.toNat = (15 : Fin 16).val ∧
    rs.sp.toNat = (0 : Fin 16).val ∧ (rs.setPc 0xFFE).pc.toNat + 1 < 4096 ∧
    fetch ((rs.setSp 16).withFetchWord 16 0x2400) = .ok (encode (.call 0x400)) := by decide

/-- A call to 0x204, where `LDI V0, 1` stands before the return: CallReturnsToNextInstruction. -/
def callState : State := rs.setMem [(0x204, 0x60), (0x205, 0x01), (0x207, 0xEE)]

theorem test_witness_call_return : ∃ t u, exec (.call 0x204) callState = .next t ∧
    RunsAbove callState.sp.toNat t u ∧ u.sp.toNat = callState.sp.toNat + 1 ∧ u.readV 0 = 1 :=
  ⟨_, _, rfl, .step (by decide) rfl (.host (by decide) (.inl rfl) (.here (by decide))), by decide, by decide⟩
/-- SelfJumpIsFixedPoint. -/
theorem test_witness_self_jump : fetch (rs.withFetchWord 16 0x1200) = .ok (encode (.jp 0x200)) ∧
    (0x200 : BitVec 12).toNat = (rs.withFetchWord 16 0x1200).pc.toNat := by decide
/-- The two cases of SkeqiSkipsIfEqual, SkneiSkipsIfDifferent, SkeqrSkipsIfEqual. -/
theorem test_witness_skips : (rs.writeV 1 4).readV 1 = 4 ∧ (rs.writeV 1 4).readV 1 ≠ 5 ∧
    rs.readV 1 = rs.readV 2 ∧ (rs.writeV 1 4).readV 1 ≠ (rs.writeV 1 4).readV 2 := by decide
/-- SkpSkipsIfPressed and SknpSkipsIfNotPressed, with the key pressed and not. -/
theorem test_witness_keys : ((rs.writeV 0 0xF5).readV 0).toNat % 16 = (5 : Fin 16).val ∧
    (rs.writeKey 5 true).readKey 5 = true ∧ rs.readKey 5 = false := by decide
/-- AddWritesSumAndCarry and SubWritesDifferenceAndNoBorrow: both values of each flag; WriteOrderMattersOnlyForVF. -/
theorem test_witness_flags : (0 : Reg) ≠ regF ∧ (0xFF : Byte).toNat + (1 : Byte).toNat > 255 ∧
    ¬ (0xFF : Byte).toNat + (0 : Byte).toNat > 255 ∧ (3 : Byte).toNat ≥ (3 : Byte).toNat ∧
    ¬ (3 : Byte).toNat ≥ (4 : Byte).toNat := by decide
/-- DrawOutsideMemoryFaults and DrawTogglesCoveredPixels, at the values where they meet. -/
theorem test_witness_draw_bounds : ¬ spriteInMemory (rs.setI 0xFF2) 15 ∧ ¬ spriteInMemory (rs.setI 0x1000) 1 ∧
    spriteInMemory (rs.setI 0xFF1) 15 ∧ spriteInMemory (rs.setI 0xFFFF) 0 := by decide
/-- The two cases of a pixel in DrawTogglesCoveredPixels: the font's 0 has its top row lit in columns 0 to 3. -/
theorem test_witness_draw_pixels : spriteCovers (rs.setI 0x50) 0 0 5 3 0 ∧ ¬ spriteCovers (rs.setI 0x50) 0 0 5 4 0 ∧
    pixel (setPixel blankScreen 3 0 true) 3 0 = true := by decide
/-- DrawTwiceRestoresScreen. -/
theorem test_witness_draw_twice : ∃ t, exec (.draw 0 1 1) (rs.setI 0x50) = .next t ∧
    t.readV 0 = (rs.setI 0x50).readV 0 ∧ t.readV 1 = (rs.setI 0x50).readV 1 :=
  ⟨_, rfl, by decide, by decide⟩
/-- NoStepWritesMemoryIndexTimersKeys. -/
theorem test_witness_step_next : ∃ t, step (rs.withFetchWord 16 0x1200) = .next t := ⟨_, rfl⟩
/-- OnlyCallAndRetUseStack: a call changes the stack, a return changes `SP`. -/
theorem test_witness_stack_used : (nextOf (exec (.call 0x204) rs)).map (fun t => (t.stk == rs.stk, t.sp)) = some (false, 1) ∧
    (nextOf (exec .ret (rs.setSp 1))).map (·.sp) = some 0 := by decide
/-- ScreenChangesRequestRedraw: both kinds of instruction. -/
theorem test_witness_redraw : (nextOf (exec .cls rs)).isSome = true ∧ (nextOf (exec (.jp 0) rs)).isSome = true := by decide
/-- RegistersChangeOnlyAsDestination: a destination, and `VF` as a flag. -/
theorem test_witness_register_changes : (nextOf (exec (.ldi 4 9) rs)).map (·.readV 4) = some 9 ∧
    (nextOf (exec (.sub 0 1) rs)).map (·.readV regF) = some 1 := by decide
/-- KeysAreSeenOnlyBySkips: an instruction that reads no key, and a `SKP` that names another key. -/
theorem test_witness_keys_unseen : ∀ w x, fetch (rs.withFetchWord 16 0x6001) = .ok w →
    decodeWord w = .ok (.skp x) ∨ decodeWord w = .ok (.sknp x) →
    ((rs.withFetchWord 16 0x6001).readV x).toNat % 16 ≠ (5 : Fin 16).val := by
  intro w x hf hd
  have hw : fetch (rs.withFetchWord 16 0x6001) = .ok 0x6001 := by decide
  rw [hw] at hf
  cases hf
  have hi : decodeWord 0x6001 = .ok (.ldi 0 1) := by decide
  rw [hi] at hd
  obtain hd | hd := hd <;> cases hd
theorem test_witness_keys_other : fetch (rs.withFetchWord 16 0xE09E) = .ok 0xE09E ∧
    decodeWord 0xE09E = .ok (.skp 0) ∧ (rs.readV 0).toNat % 16 ≠ (5 : Fin 16).val := by decide
/-- MemoryReadsAndWritesBytes at the top of memory, and CanonicalMemoriesAreEqualData. -/
theorem test_witness_memory : Memory.wf [(0x200, 0x12), (0xFFF, 0x01)] = true ∧ Memory.wf [(0x1000, 0x01)] = false ∧
    Memory.wf [(0x200, 0x00)] = false ∧ Memory.wf [(0x201, 1), (0x200, 1)] = false ∧
    4096 ≤ 0x1000 ∧ 0xFFF < 4096 := by decide
theorem test_witness_canonical : putByte (putByte [] 0x201 2) 0x200 1 = putByte (putByte [] 0x200 1) 0x201 2 ∧
    putByte (putByte [] 0x200 1) 0x200 0 = [] := by decide
/-- OperationsActOnTheState: a step that ends in each of the three outcomes. -/
theorem test_witness_operations : (stepOp .halt (rs.withFetchWord 16 0x1200)).1 = .ok ∧
    (stepOp .halt rs).1 = .fault (.unknownOpcode 0 0x200) ∧
    (stepOp .halt ((rs.setSp 17).withFetchWord 16 0x00EE)).1 = .refused .stackPointerBeyondStack := by decide
/-- LoadResetsAndPlacesImage and OnlyLoadBeforeFirstLoad, at the values where their clauses meet. -/
theorem test_witness_load : 3584 < (List.replicate 3585 (0 : Byte)).length ∧
    (List.replicate 3584 (0 : Byte)).length ≤ 3584 := by
  rw [List.length_replicate, List.length_replicate]; decide
theorem test_witness_before_load : (∀ image, Op.step ≠ .load image) ∧
    operate .halt .step .constructed = (.refused .beforeLoad, .constructed) :=
  ⟨fun _ h => (nomatch h), by decide⟩
/-- DebugWriteSetsOneItem, at the greatest value of each width. -/
theorem test_witness_debug_write :
    ((operateLoaded .halt (.debugWrite (.v 15) 255) rs).2.v[15], (operateLoaded .halt (.debugWrite .i 65535) rs).2.i,
      (operateLoaded .halt (.debugWrite .sp 16) rs).2.sp, (operateLoaded .halt (.debugWrite .nr 1) rs).2.nr) =
    (255, 65535, 16, true) := by decide
/-- DebugWriteRefusals: one value for each clause. -/
theorem test_witness_debug_refused : (debugWrite (.v 0) 256 rs) = .error .debugWriteRefused ∧
    (debugWrite .pc 65536 rs) = .error .debugWriteRefused ∧ (debugWrite .sp 17 rs) = .error .debugWriteRefused ∧
    (debugWrite .nr 2 rs) = .error .debugWriteRefused ∧ (debugWrite (.key 5) 1 rs) = .error .debugWriteRefused ∧
    (debugWrite (.mem 0) 0 rs) = .error .debugWriteRefused := by decide

end Sys2Proof.Tests
end

/-! # The rules of the whole state (10_state.md)

What an instruction that completes makes of the state, said once by the kind of the instruction; the frames and the
invariant of 10_state.md R36 follow from it. -/

namespace Sys2Proof.Machine

/-! ## The kinds of instructions -/

/-- The five conditional skips (42_conditional_skips.md, 45_input_skips.md). -/
def isSkip : Instr → Bool
  | .skeqi _ _ | .sknei _ _ | .skeqr _ _ | .skp _ | .sknp _ => true
  | _ => false

/-- The destination of the six instructions that write one register and no flag (43_load_and_alu.md R160 to R165). -/
def loadDest : Instr → Option Reg
  | .ldi x _ | .addi x _ | .mov x _ | .or x _ | .and x _ | .xor x _ => some x
  | _ => none

/-- The destination of the two instructions that write a flag beside their result (43_load_and_alu.md R166, R167). -/
def arithDest : Instr → Option Reg
  | .add x _ | .sub x _ => some x
  | _ => none

theorem advancedPc_of_loadDest {i : Instr} {x : Reg} (h : loadDest i = some x) (s : State) :
    advancedPc i s = some (s.pc.toNat + 2) := by
  cases i with
  | ldi _ _ | addi _ _ | mov _ _ | or _ _ | and _ _ | xor _ _ => rfl
  | _ => cases h

theorem advancedPc_of_arithDest {i : Instr} {x : Reg} (h : arithDest i = some x) (s : State) :
    advancedPc i s = some (s.pc.toNat + 2) := by
  cases i with
  | add _ _ | sub _ _ => rfl
  | _ => cases h

/-! ## What the execute phase can do -/

/-- `Completes i s t`: where `i` completes in `s`, it leaves `t`. -/
inductive Completes : Instr → State → State → Prop where
  | cls {s : State} : Completes .cls s ((s.setFb blankScreen).setNr true).advance
  | draw {x y : Reg} {n : BitVec 4} {s : State} {fb : Framebuffer} {flag : Byte} :
      Completes (.draw x y n) s (((s.setFb fb).writeV regF flag).setNr true).advance
  | ret {s : State} (k : Fin 16) (hk : s.sp.toNat = k.val + 1) :
      Completes .ret s ((s.setSp (s.sp - 1)).setPc (s.readStk k))
  | jp {nnn : BitVec 12} {s : State} : Completes (.jp nnn) s (s.jump nnn)
  | call {nnn : BitVec 12} {s : State} (k : Fin 16) (hk : s.sp.toNat = k.val) :
      Completes (.call nnn) s (((s.writeStk k (s.pc + 2)).setSp (s.sp + 1)).jump nnn)
  | skip {i : Instr} {s : State} {c : Bool} (hi : isSkip i = true)
      (hc : advancedPc i s = some (s.pc.toNat + if c then 4 else 2)) : Completes i s (s.skipIf c)
  | load {i : Instr} {s : State} {x : Reg} {b : Byte} (hi : loadDest i = some x) : Completes i s (s.loadV x b)
  | arith {i : Instr} {s : State} {x : Reg} {flag result : Byte} (hi : arithDest i = some x) :
      Completes i s ((s.writeV regF flag).writeV x result).advance

/-- `FaultsWith i s f`: the condition under which `i` faults with `f` in `s` (60_exceptions.md R200). -/
inductive FaultsWith : Instr → State → Fault → Prop where
  | ret {s : State} (hs : s.sp.toNat = 0) : FaultsWith .ret s .stackUnderflow
  | call {nnn : BitVec 12} {s : State} (hs : 16 ≤ s.sp.toNat) : FaultsWith (.call nnn) s .stackOverflow
  | draw {x y : Reg} {n : BitVec 4} {s : State} {f : Fault} (hf : spriteFault s.i.toNat n.toNat = some f) :
      FaultsWith (.draw x y n) s f

/-- `RET`: it completes, or the stack underflows, or `SP` is beyond the stack (log 8). -/
theorem execRet_completes (s : State) :
    (∃ t, exec .ret s = .next t ∧ Completes .ret s t) ∨ (∃ f, exec .ret s = .fault f ∧ FaultsWith .ret s f) ∨
    (16 < s.sp.toNat ∧ exec .ret s = .refused .stackPointerBeyondStack) := by
  obtain ⟨h, he⟩ | ⟨h, he⟩ | ⟨hk, h, he⟩ := popReturn_cases s
  · exact .inr (.inl ⟨_, he, .ret h⟩)
  · exact .inr (.inr ⟨h, he⟩)
  · exact .inl ⟨_, he, .ret ⟨s.sp.toNat - 1, hk⟩ (by simp only; omega)⟩

/-- `CALL`: it completes, or the stack overflows. -/
theorem execCall_completes (nnn : BitVec 12) (s : State) :
    (∃ t, exec (.call nnn) s = .next t ∧ Completes (.call nnn) s t) ∨
    (∃ f, exec (.call nnn) s = .fault f ∧ FaultsWith (.call nnn) s f) := by
  obtain ⟨h, he⟩ | ⟨h, he⟩ := execCall_cases nnn s
  · exact .inr ⟨_, he, .call h⟩
  · exact .inl ⟨_, he, .call ⟨s.sp.toNat, h⟩ rfl⟩

/-- `DRAW`: it completes, or a sprite address is outside memory. -/
theorem execDraw_completes (x y : Reg) (n : BitVec 4) (s : State) :
    (∃ t, exec (.draw x y n) s = .next t ∧ Completes (.draw x y n) s t) ∨
    (∃ f, exec (.draw x y n) s = .fault f ∧ FaultsWith (.draw x y n) s f) := by
  cases hf : spriteFault s.i.toNat n.toNat with
  | some f => exact .inr ⟨f, by simp only [exec, execDraw, hf], .draw hf⟩
  | none => exact .inl ⟨_, by simp only [exec, execDraw, hf]; rfl, .draw⟩

/-- The execute phase: the instruction completes, or its own fault condition holds, or it is `RET` beyond the stack. -/
theorem exec_cases (i : Instr) (s : State) :
    (∃ t, exec i s = .next t ∧ Completes i s t) ∨ (∃ f, exec i s = .fault f ∧ FaultsWith i s f) ∨
    (i = .ret ∧ 16 < s.sp.toNat ∧ exec i s = .refused .stackPointerBeyondStack) := by
  cases i with
  | ret => simpa using execRet_completes s
  | call nnn => exact (execCall_completes nnn s).imp_right .inl
  | draw x y n => exact (execDraw_completes x y n s).imp_right .inl
  | cls => exact .inl ⟨_, rfl, .cls⟩
  | jp nnn => exact .inl ⟨_, rfl, .jp⟩
  | skeqi x nn | sknei x nn => exact .inl ⟨_, rfl, .skip rfl (by simp [advancedPc])⟩
  | skeqr x y => exact .inl ⟨_, rfl, .skip rfl (by simp [advancedPc])⟩
  | skp x => exact .inl ⟨_, rfl, .skip rfl rfl⟩
  | sknp x => exact .inl ⟨_, rfl, .skip rfl (by cases h : s.keyPressed x <;> simp [advancedPc, h])⟩
  | ldi x nn | addi x nn => exact .inl ⟨_, rfl, .load rfl⟩
  | mov x y | or x y | and x y | xor x y => exact .inl ⟨_, rfl, .load rfl⟩
  | add x y | sub x y => exact .inl ⟨_, rfl, .arith rfl⟩

theorem exec_next {i : Instr} {s t : State} (h : exec i s = .next t) : Completes i s t := by
  obtain ⟨u, he, hu⟩ | ⟨f, he, -⟩ | ⟨-, -, he⟩ := exec_cases i s <;> rw [he] at h <;> cases h
  exact hu

/-- A step that completes is one of the forms of `Completes`. -/
theorem step_completes {s t : State} (h : step s = .next t) : ∃ i, Completes i s t := by
  obtain ⟨_, i, -, -, -, he⟩ := step_next h
  exact ⟨i, exec_next he⟩

/-- The only refusal of the execute phase is that of `RET` beyond the stack (log 8). -/
theorem exec_refused {i : Instr} {s : State} {r : Refusal} (h : exec i s = .refused r) : 16 < s.sp.toNat := by
  obtain ⟨u, he, -⟩ | ⟨f, he, -⟩ | ⟨-, hs, -⟩ := exec_cases i s
  · rw [he] at h; cases h
  · rw [he] at h; cases h
  · exact hs

/-! ## Frames of the execute phase -/

/-- No instruction writes memory, `I`, a timer or a key (10_state.md R37). -/
theorem Completes.sameUnwritten {i : Instr} {s t : State} (h : Completes i s t) :
    t.mem = s.mem ∧ t.i = s.i ∧ t.dt = s.dt ∧ t.st = s.st ∧ t.key = s.key := by
  cases h <;> exact ⟨rfl, rfl, rfl, rfl, rfl⟩

/-- Settles O36: what a step that completes does is one of the forms of `Completes`, none of which writes these. -/
theorem noStepWritesMemoryIndexTimersKeys : Obligations.NoStepWritesMemoryIndexTimersKeys := by
  intro s t h
  obtain ⟨_, ht⟩ := step_completes h
  exact ht.sameUnwritten

/-- Settles O37: of the forms of `Completes` only that of `CALL` has a `writeStk`, only those of `CALL` and `RET` a
`setSp`. -/
theorem onlyCallAndRetUseStack : Obligations.OnlyCallAndRetUseStack := by
  intro i s t h
  cases exec_next h with
  | ret => exact ⟨fun hd => absurd rfl hd, fun _ => .inl rfl⟩
  | call => exact ⟨fun _ => ⟨_, rfl⟩, fun _ => .inr ⟨_, rfl⟩⟩
  | _ => exact ⟨fun hd => absurd rfl hd, fun hd => absurd rfl hd⟩

/-- Settles O38: `CLS` and `DRAW` end with `setNr true`, and no other form of `Completes` writes the screen or `NR`. -/
theorem screenChangesRequestRedraw : Obligations.ScreenChangesRequestRedraw := by
  intro i s t h
  cases exec_next h with
  | cls => exact ⟨fun _ => rfl, fun hn => absurd (.inl rfl) hn⟩
  | draw => exact ⟨fun _ => rfl, fun hn => absurd (.inr ⟨_, _, _, rfl⟩) hn⟩
  | ret | jp | call => exact ⟨by simp, fun _ => ⟨rfl, rfl⟩⟩
  | skip hi | load hi | arith hi =>
    refine ⟨?_, fun _ => ⟨rfl, rfl⟩⟩
    rintro (rfl | ⟨_, _, _, rfl⟩) <;> cases hi

theorem eq_of_loadDest {i : Instr} {x : Reg} (h : loadDest i = some x) :
    (∃ nn, i = .ldi x nn ∨ i = .addi x nn) ∨ ∃ y, i = .mov x y ∨ i = .or x y ∨ i = .and x y ∨ i = .xor x y := by
  cases i <;> cases h <;> simp

theorem eq_of_arithDest {i : Instr} {x : Reg} (h : arithDest i = some x) : ∃ y, i = .add x y ∨ i = .sub x y := by
  cases i <;> cases h <;> simp

/-- A register that a write changes is the one written. -/
theorem eq_of_writeV_readV_ne {s : State} {x z : Reg} {b : Byte} (h : (s.writeV x b).readV z ≠ s.readV z) : z = x := by
  by_contra hz
  simp [hz] at h

/-- Settles O39: the registers that each form of `Completes` writes. -/
theorem registersChangeOnlyAsDestination : Obligations.RegistersChangeOnlyAsDestination := by
  intro i s t z h hz
  cases exec_next h with
  | load hi =>
    obtain rfl := eq_of_writeV_readV_ne (s := s) hz
    obtain h | ⟨y, h⟩ := eq_of_loadDest hi
    · exact .inl h
    · exact .inr (.inl ⟨y, by tauto⟩)
  | @arith _ _ x _ _ hi =>
    obtain ⟨y, h⟩ := eq_of_arithDest hi
    by_cases hx : z = x
    · subst hx
      exact .inr (.inl ⟨y, by tauto⟩)
    · have hF : z = regF := by
        by_contra hF
        simp [hx, hF] at hz
      exact .inr (.inr ⟨hF, .inl ⟨x, y, h⟩⟩)
  | draw => exact .inr (.inr ⟨eq_of_writeV_readV_ne (s := s) hz, .inr ⟨_, _, _, rfl⟩⟩)
  | _ => exact absurd rfl hz

/-- The sum of a fetched `PC` and a skip does not wrap. -/
theorem skipIf_pc_toNat {s : State} (hs : s.pc.toNat < 4095) (c : Bool) :
    (s.skipIf c).pc.toNat = s.pc.toNat + if c then 4 else 2 := by
  cases c <;> simp <;> omega

theorem advance_pc_toNat {s : State} (hs : s.pc.toNat < 4095) : s.advance.pc.toNat = s.pc.toNat + 2 :=
  skipIf_pc_toNat hs false

/-- Settles O13: an instruction is fetched below 4095, so neither sum reaches the width of `PC`. -/
theorem advancedPcNeverWraps : Obligations.AdvancedPcNeverWraps := by
  intro s t w i n hf hd hs hn
  obtain ⟨w', i', hpc, hf', hd', he⟩ := step_next hs
  obtain rfl : w = w' := Except.ok.inj (hf.symm.trans hf')
  obtain rfl : i = i' := Except.ok.inj (hd.symm.trans hd')
  cases exec_next he with
  | ret | jp | call => cases hn
  | skip _ hc => exact (skipIf_pc_toNat hpc _).trans (Option.some.inj (hc.symm.trans hn))
  | load hi => exact (advance_pc_toNat hpc).trans (Option.some.inj ((advancedPc_of_loadDest hi s).symm.trans hn))
  | arith hi => exact (advance_pc_toNat hpc).trans (Option.some.inj ((advancedPc_of_arithDest hi s).symm.trans hn))
  | cls | draw => exact (advance_pc_toNat hpc).trans (Option.some.inj hn)

/-! ## The invariant under steps -/

/-- No instruction takes `SP` above 16 (10_state.md R25). -/
theorem Completes.sp_le {i : Instr} {s t : State} (h : Completes i s t) (hs : s.sp.toNat ≤ 16) : t.sp.toNat ≤ 16 := by
  cases h with
  | ret k hk => simp; omega
  | call k hk => simp; omega
  | _ => exact hs

/-- The invariant speaks of `SP` and memory alone. -/
theorem State.Inv.of_sp_mem {s t : State} (h : s.Inv) (hsp : t.sp.toNat ≤ 16) (hmem : t.mem = s.mem) : t.Inv := by
  obtain ⟨-, hwf, hfont⟩ := h
  refine ⟨hsp, hmem ▸ hwf, fun k hk => ?_⟩
  rw [State.readByte, hmem]
  exact hfont k hk

/-- Settles O43: no instruction writes memory, and none takes `SP` above 16. -/
theorem stepKeepsInvariant : Obligations.StepKeepsInvariant := by
  intro s t hs h
  obtain ⟨_, ht⟩ := step_completes h
  obtain ⟨hmem, -⟩ := ht.sameUnwritten
  exact hs.of_sp_mem (ht.sp_le hs.1) hmem

/-- Settles O12: the one refusal is that of `RET` with `SP` above 16. -/
theorem invariantStatesAreNeverRefused : Obligations.InvariantStatesAreNeverRefused := by
  intro s r hs h
  obtain ⟨_, _, he⟩ | ⟨_, _, _, _, he⟩ | ⟨_, _, _, _, he⟩ := step_cases s <;> rw [he] at h
  · cases h
  · cases h
  · exact absurd hs.1 (Nat.not_le.2 (exec_refused h))

/-- Settles O15: with `SP` above 16 neither the underflow nor a pop applies. -/
theorem retBeyondStackIsRefused : Obligations.RetBeyondStackIsRefused := by
  intro s hs
  obtain ⟨h0, -⟩ | ⟨-, he⟩ | ⟨hk, -, -⟩ := popReturn_cases s
  · omega
  · exact he
  · omega

/-! ## What memory reads as after a write -/

/-- A canonical form from `lo` lists no address below `lo`. -/
theorem byteAt_of_lt {m : Memory} {lo c : Nat} (h : memWfFrom lo m = true) (hc : c < lo) :
    byteAt m c = unlistedByte c := by
  induction m generalizing lo with
  | nil => rfl
  | cons cell m ih =>
    obtain ⟨h1, -, -, h4⟩ := memWfFrom_cons.1 h
    rw [byteAt, if_neg (by omega)]
    exact ih h4 (by omega)

/-- A write sets its byte and leaves every other byte alone (20_memory.md R62). -/
theorem byteAt_putByte {m : Memory} {lo a : Nat} {b : Byte} (h : memWfFrom lo m = true) (c : Nat) :
    byteAt (putByte m a b) c = if c = a then b else byteAt m c := by
  induction m generalizing lo with
  | nil =>
    by_cases hb : b = unlistedByte a
    · by_cases hc : c = a <;> simp [putByte, byteAt, hb, hc]
    · simp [putByte, byteAt, hb]
  | cons cell m ih =>
    obtain ⟨k, d⟩ := cell
    obtain ⟨-, h2, h3, h4⟩ := memWfFrom_cons.1 h
    obtain ha | rfl | ha := Nat.lt_trichotomy a k
    · have hfree : byteAt ((k, d) :: m) a = unlistedByte a :=
        byteAt_of_lt (memWfFrom_cons.2 ⟨le_rfl, h2, h3, h4⟩) ha
      by_cases hb : b = unlistedByte a
      · by_cases hc : c = a <;> simp [putByte, ha, hb, hc, hfree]
      · simp [putByte, ha, hb, byteAt]
    · have hfree : byteAt m a = unlistedByte a := byteAt_of_lt h4 (Nat.lt_succ_self a)
      by_cases hb : b = unlistedByte a <;> by_cases hc : c = a <;> simp [putByte, byteAt, hb, hc, hfree]
    · have hput : putByte ((k, d) :: m) a b = (k, d) :: putByte m a b := by
        rw [putByte, if_neg (by omega), if_neg (by omega)]
      by_cases hc : c = k
      · simp [hput, byteAt, hc, Nat.ne_of_lt ha]
      · simp [hput, byteAt, hc, ih h4]

/-- Bytes written from `a` up stand there, and every other byte is as before. -/
theorem byteAt_putBytes {m : Memory} (hm : Memory.wf m = true) {a : Nat} {bs : List Byte} (hs : a + bs.length ≤ 4096)
    (c : Nat) :
    byteAt (putBytes m a bs) c = if a ≤ c ∧ c < a + bs.length then bs.getD (c - a) 0 else byteAt m c := by
  induction bs generalizing a with
  | nil => simp [putBytes, Nat.not_lt.2]
  | cons b bs ih =>
    rw [List.length_cons] at hs
    rw [putBytes, if_neg (by simp; omega), byteAt_putByte (putBytes_wf hm (a + 1) bs), ih (by omega)]
    obtain hc | rfl | hc := Nat.lt_trichotomy c a
    · rw [if_neg (by omega), if_neg (by omega), if_neg (by omega)]
    · simp
    · obtain ⟨j, rfl⟩ : ∃ j, c = a + 1 + j := ⟨c - (a + 1), by omega⟩
      simp [show a + 1 + j - a = j + 1 by omega, show a + 1 + j ≠ a by omega,
        show a ≤ a + 1 + j by omega, show a + 1 + j < a + (bs.length + 1) ↔ a + 1 + j < a + 1 + bs.length by omega]

/-! ## Reset and load (10_state.md R35) -/

theorem unlistedByte_font (k : Nat) : unlistedByte (Config.fontBase + k) = Config.fontTable.getD k 0 := by
  simp [unlistedByte]

/-- The font table has 80 bytes, so past it memory reads as 0 with nothing listed. -/
theorem unlistedByte_eq (a : Nat) :
    unlistedByte a = if 0x050 ≤ a ∧ a < 0x0A0 then Config.fontTable.getD (a - 0x050) 0 else 0 := by
  unfold unlistedByte
  by_cases h : 0x0A0 ≤ a
  · have hlen : Config.fontTable.length ≤ a - 0x050 := by
      rw [show Config.fontTable.length = 80 from rfl]; omega
    rw [List.getD_eq_default _ _ hlen]
    simp
  · simp [Nat.lt_of_not_le h]

theorem reset_readByte (a : Nat) : State.reset.readByte a = unlistedByte a := rfl

/-- Settles O49: every vector of the state after reset is a `replicate`, and its memory lists nothing. -/
theorem resetState : Obligations.ResetState := by
  refine ⟨fun x => ?_, rfl, rfl, rfl, fun k => ?_, rfl, rfl, pixel_blankScreen, rfl, fun k => ?_, unlistedByte_eq⟩
  · simp [State.readV, State.reset]
  · simp [State.readStk, State.reset]
  · simp [State.readKey, State.reset]

theorem reset_inv : State.reset.Inv := ⟨by decide, reset_mem_wf, fun k _ => unlistedByte_font k⟩

/-- Below the font every byte after reset is 0. -/
theorem reset_quiet : State.reset.Quiet :=
  ⟨rfl, rfl, rfl, rfl, fun a ha => by rw [reset_readByte, unlistedByte_eq, if_neg (by omega)]⟩

/-- Settles O42. -/
theorem resetMeetsInvariant : Obligations.ResetMeetsInvariant := ⟨reset_inv, reset_quiet⟩

/-- What a successful `load` leaves: the state after reset, but for the image from 0x200 (70_reset_and_hazards.md
R240, R242). -/
theorem loadImage_ok {image : List Byte} (h : image.length ≤ 3584) :
    ∃ t, loadImage image = .ok t ∧ t = { State.reset with mem := t.mem } ∧ Memory.wf t.mem = true ∧
      ∀ a, t.readByte a =
        if 0x200 ≤ a ∧ a < 0x200 + image.length then image.getD (a - 0x200) 0 else State.reset.readByte a := by
  obtain ⟨hl, -⟩ | ⟨-, he⟩ := loadImage_cases image
  · omega
  · exact ⟨_, he, rfl, putBytes_wf reset_mem_wf _ _, fun a => byteAt_putBytes reset_mem_wf (by omega) a⟩

theorem loadImage_error {image : List Byte} (h : 3584 < image.length) :
    loadImage image = .error (.programTooLarge image.length) := by
  obtain ⟨-, he⟩ | ⟨hl, -⟩ := loadImage_cases image
  · exact he
  · omega

/-- The image stands above the font, so a `load` leaves the font in place. -/
theorem loadImage_inv {image : List Byte} {t : State} (h : loadImage image = .ok t) : t.Inv := by
  obtain hl | hl := Nat.lt_or_ge 3584 image.length
  · rw [loadImage_error hl] at h; cases h
  · obtain ⟨u, he, hu, hwf, hbytes⟩ := loadImage_ok hl
    obtain rfl : u = t := Except.ok.inj (he.symm.trans h)
    refine ⟨by rw [hu]; exact Nat.zero_le 16, hwf, fun k hk => ?_⟩
    rw [hbytes, if_neg (by simp; omega), reset_readByte, unlistedByte_font]

/-! ## The invariant under the host's operations -/

/-- The debug port writes no memory (60_exceptions.md R227). -/
theorem debugStore_mem (item : Item) (n : Nat) (s : State) : (debugStore item n s).mem = s.mem := by
  cases item <;> rfl

/-- The debug port takes no `SP` above 16 (60_exceptions.md R227). -/
theorem debugStore_sp_le {item : Item} {n max : Nat} {s : State} (hm : debugMax item = some max) (hn : n ≤ max)
    (hs : s.sp.toNat ≤ 16) : (debugStore item n s).sp.toNat ≤ 16 := by
  cases item with
  | sp =>
    obtain rfl : 16 = max := Option.some.inj hm
    simp only [debugStore, State.setSp_sp, BitVec.toNat_ofNat]
    omega
  | _ => exact hs

theorem debugWrite_inv {item : Item} {n : Nat} {s t : State} (hs : s.Inv) (h : debugWrite item n s = .ok t) :
    t.Inv := by
  obtain he | ⟨max, hm, hn, he⟩ := debugWrite_cases item n s <;> rw [he] at h <;> cases h
  exact hs.of_sp_mem (debugStore_sp_le hm hn hs.1) (debugStore_mem item n s)

theorem stateAfterFault_inv {s : State} (hs : s.Inv) (p : Config.UnknownPolicy) (f : Fault) :
    (stateAfterFault p f s).Inv := by
  obtain he | ⟨-, -, he⟩ := stateAfterFault_cases p f s <;> rw [he]
  · exact hs
  · exact hs.of_sp_mem hs.1 rfl

theorem stepOp_inv {s : State} (hs : s.Inv) (p : Config.UnknownPolicy) : (stepOp p s).2.Inv := by
  obtain ⟨t, ht, he⟩ | ⟨f, -, he⟩ | ⟨r, -, he⟩ := stepOp_cases p s <;> rw [he]
  · exact stepKeepsInvariant s t hs ht
  · exact stateAfterFault_inv hs p f
  · exact hs

theorem operateLoaded_inv {s : State} (hs : s.Inv) (p : Config.UnknownPolicy) (op : Op) :
    (operateLoaded p op s).2.Inv := by
  cases op with
  | load image =>
    cases h : loadImage image with
    | ok t => simpa only [operateLoaded, h] using loadImage_inv h
    | error f => simpa only [operateLoaded, h] using hs
  | step => exact stepOp_inv hs p
  | debugWrite item n =>
    cases h : debugWrite item n s with
    | ok t => simpa only [operateLoaded, h] using debugWrite_inv hs h
    | error r => simpa only [operateLoaded, h] using hs
  | tickTimers | setKey | frameConsumed => exact hs.of_sp_mem hs.1 rfl
  | readFrame | soundActive | debugRead => exact hs

/-! ## The machine before its first `load` -/

theorem operate_constructed_of_ne_load (p : Config.UnknownPolicy) {op : Op} (h : ∀ image, op ≠ .load image) :
    operate p op .constructed = (.refused .beforeLoad, .constructed) := by
  cases op with
  | load image => exact absurd rfl (h image)
  | _ => rfl

theorem operate_constructed_load_ok (p : Config.UnknownPolicy) {image : List Byte} {t : State}
    (h : loadImage image = .ok t) : operate p (.load image) .constructed = (.ok, .loaded t) := by
  simp only [operate, h]

theorem operate_constructed_load_error (p : Config.UnknownPolicy) {image : List Byte} {f : Fault}
    (h : loadImage image = .error f) : operate p (.load image) .constructed = (.fault f, .constructed) := by
  simp only [operate, h]

/-- Settles O44: before the first `load` only a successful `load` leaves a state, and after it each operation keeps the
invariant. -/
theorem operationKeepsInvariant : Obligations.OperationKeepsInvariant := by
  intro p op m hm
  cases m with
  | loaded s => exact operateLoaded_inv hm p op
  | constructed =>
    by_cases h : ∃ image, op = .load image
    · obtain ⟨image, rfl⟩ := h
      cases hl : loadImage image with
      | ok t => rw [operate_constructed_load_ok p hl]; exact loadImage_inv hl
      | error f => rw [operate_constructed_load_error p hl]; trivial
    · rw [operate_constructed_of_ne_load p (not_exists.1 h)]; trivial

theorem operateAll_inv (p : Config.UnknownPolicy) (ops : List Op) {m : Boot} (hm : m.Inv) :
    (operateAll p ops m).2.Inv := by
  induction ops generalizing m with
  | nil => exact hm
  | cons op ops ih => exact ih (operationKeepsInvariant p op m hm)

/-- Settles O45: the machine just constructed has no state to violate the invariant, and every operation keeps it. -/
theorem everyRunKeepsInvariant : Obligations.EveryRunKeepsInvariant := fun p ops => operateAll_inv p ops trivial

/-- Settles O51, by the outcome of `load`. -/
theorem onlyLoadBeforeFirstLoad : Obligations.OnlyLoadBeforeFirstLoad := by
  intro p op
  refine ⟨operate_constructed_of_ne_load p, ?_, ?_⟩
  · rintro image rfl hl
    exact operate_constructed_load_error p (loadImage_error hl)
  · rintro image rfl hl
    obtain ⟨t, he, ht, -, hbytes⟩ := loadImage_ok hl
    exact ⟨t, operate_constructed_load_ok p he, ht, hbytes⟩

/-! ## What execution does not see: the timers, and the keys but for `SKP` and `SKNP` -/

/-- The timers and the key latch changed, each by a function of its own: what `tickTimers` and `setKey` do. -/
def State.mapDevices (f g : Byte → Byte) (k : Vector Bool Config.nkeys → Vector Bool Config.nkeys) (s : State) : State :=
  { s with dt := f s.dt, st := g s.st, key := k s.key }

theorem tickTimers_eq_mapDevices : tickTimers = State.mapDevices tickDown tickDown (fun k => k) := rfl

theorem setKey_eq_mapDevices (id : Fin 16) (pressed : Bool) :
    setKey id pressed = State.mapDevices (fun n => n) (fun n => n) (·.set id pressed) := rfl

section
variable (f g : Byte → Byte) (k : Vector Bool Config.nkeys → Vector Bool Config.nkeys)

@[simp] theorem State.mapDevices_i (s : State) : (s.mapDevices f g k).i = s.i := rfl

theorem popReturn_mapDevices (s : State) :
    popReturn (s.mapDevices f g k) = mapNext (State.mapDevices f g k) (popReturn s) := by
  unfold popReturn
  rw [apply_ite (mapNext _), apply_dite (mapNext _)]
  rfl

theorem pushReturn_mapDevices (s : State) (a : Word) :
    pushReturn (s.mapDevices f g k) a = mapNext (State.mapDevices f g k) (pushReturn s a) := by
  unfold pushReturn
  rw [apply_dite (mapNext _)]
  rfl

theorem execCall_eq_mapNext (nnn : BitVec 12) (s : State) :
    execCall nnn s = mapNext (State.jump · nnn) (pushReturn s s.nextPc) := rfl

theorem execCall_mapDevices (nnn : BitVec 12) (s : State) :
    execCall nnn (s.mapDevices f g k) = mapNext (State.mapDevices f g k) (execCall nnn s) := by
  rw [execCall_eq_mapNext, pushReturn_mapDevices, execCall_eq_mapNext]
  change mapNext _ (mapNext _ (pushReturn s s.nextPc)) = _
  cases pushReturn s s.nextPc <;> rfl

theorem execDraw_mapDevices (x y : Reg) (n : BitVec 4) (s : State) :
    execDraw x y n (s.mapDevices f g k) = mapNext (State.mapDevices f g k) (execDraw x y n s) := by
  simp only [execDraw, State.mapDevices_i]
  cases spriteFault s.i.toNat n.toNat <;> rfl

/-- The execute phase commutes with a change of the timers and of the keys that no `SKP` or `SKNP` names (10_state.md
R27, R31; 40_step_cycle.md R130). -/
theorem exec_mapDevices {i : Instr} {s : State}
    (hkey : ∀ x, i = .skp x ∨ i = .sknp x → (s.mapDevices f g k).keyPressed x = s.keyPressed x) :
    exec i (s.mapDevices f g k) = mapNext (State.mapDevices f g k) (exec i s) := by
  cases i with
  | ret => exact popReturn_mapDevices f g k s
  | call nnn => exact execCall_mapDevices f g k nnn s
  | draw x y n => exact execDraw_mapDevices f g k x y n s
  | skp x =>
    simp only [exec, execSkp, hkey x (.inl rfl)]
    rfl
  | sknp x =>
    simp only [exec, execSknp, hkey x (.inr rfl)]
    rfl
  | _ => rfl

/-- A step commutes with a change of the timers and of the keys that the fetched instruction does not read. -/
theorem step_mapDevices {s : State}
    (hkey : ∀ w x, fetch s = .ok w → decodeWord w = .ok (.skp x) ∨ decodeWord w = .ok (.sknp x) →
      (s.mapDevices f g k).keyPressed x = s.keyPressed x) :
    step (s.mapDevices f g k) = mapNext (State.mapDevices f g k) (step s) := by
  have hfetch : fetch (s.mapDevices f g k) = fetch s := rfl
  obtain ⟨e, hf, hs⟩ | ⟨w, e, hf, hd, hs⟩ | ⟨w, i, hf, hd, hs⟩ := step_cases s
  · rw [hs]
    simp only [step, stepCycle, hfetch, hf, mapNext]
  · rw [hs]
    simp only [step, stepCycle, hfetch, hf, hd]
    rfl
  · rw [hs, ← exec_mapDevices f g k fun x hi => hkey w x hf (by rwa [hd, Except.ok.injEq, Except.ok.injEq])]
    simp only [step, stepCycle, hfetch, hf, hd]

end

theorem keyId_val (b : Byte) : (keyId b).val = b.toNat % 16 := by
  change (b.extractLsb' 0 4).toNat = _
  simp

/-- A key change is not seen by a register that names another key (45_input_skips.md R190, D13). -/
theorem setKey_keyPressed_of_ne {s : State} {x : Reg} {id : Fin 16} (pressed : Bool)
    (h : (s.readV x).toNat % 16 ≠ id.val) : (setKey id pressed s).keyPressed x = s.keyPressed x := by
  have hid : keyId (s.readV x) ≠ id := fun he => h (keyId_val _ ▸ congrArg Fin.val he)
  simp [State.keyPressed, setKey, hid]

/-- Settles O41: `set_key` is a change of the latch, which only `SKP` and `SKNP` read, and these read the key they
name. -/
theorem keysAreSeenOnlyBySkips : Obligations.KeysAreSeenOnlyBySkips := by
  intro id pressed s h
  rw [setKey_eq_mapDevices]
  exact step_mapDevices _ _ _ fun w x hf hd => setKey_keyPressed_of_ne pressed (h w x hf hd)

end Sys2Proof.Machine

/-! # Memory (20_memory.md)

The access primitives, the fetch's byte order, and the canonical form as the one list for the bytes it reads as. -/

namespace Sys2Proof.Machine

/-! ## The access primitives (20_memory.md R62) -/

/-- Settles O47, by the bound check of both accesses; below `SIZE` the write reads back as `byteAt_putByte` says. -/
theorem memoryReadsAndWritesBytes : Obligations.MemoryReadsAndWritesBytes := by
  intro m a b hm
  refine ⟨fun ha => ⟨if_pos ha, if_pos ha⟩, fun ha => ?_⟩
  have hbound : ¬ Config.memSize ≤ a := Nat.not_le.2 ha
  exact ⟨if_neg hbound, putByte m a b, if_neg hbound, byteAt_putByte hm⟩

/-! ## The canonical form determines the list (log 3) -/

@[simp] theorem byteAt_cons_self (k : Nat) (b : Byte) (m : Memory) : byteAt ((k, b) :: m) k = b := if_pos rfl

theorem byteAt_cons_of_ne {k c : Nat} (b : Byte) (m : Memory) (h : c ≠ k) : byteAt ((k, b) :: m) c = byteAt m c :=
  if_neg h

/-- The first address listed reads otherwise in every canonical form that lists only higher ones. -/
theorem byteAt_ne_of_wfFrom_succ {lo k : Nat} {b : Byte} {m m' : Memory} (h : memWfFrom lo ((k, b) :: m) = true)
    (h' : memWfFrom (k + 1) m' = true) : byteAt ((k, b) :: m) k ≠ byteAt m' k := by
  obtain ⟨-, -, hb, -⟩ := memWfFrom_cons.1 h
  rwa [byteAt_cons_self, byteAt_of_lt h' (Nat.lt_succ_self k)]

/-- Cells over the same address that read the same below `SIZE` hold the same byte, and so do the cells above them. -/
theorem byteAt_tails_eq {k : Nat} {b b' : Byte} {m m' : Memory} (h : memWfFrom (k + 1) m = true)
    (h' : memWfFrom (k + 1) m' = true) (heq : ∀ a < 4096, byteAt ((k, b) :: m) a = byteAt ((k, b') :: m') a) :
    ∀ a < 4096, byteAt m a = byteAt m' a := by
  intro a ha
  by_cases hak : a = k
  · subst hak
    rw [byteAt_of_lt h (Nat.lt_succ_self a), byteAt_of_lt h' (Nat.lt_succ_self a)]
  · simpa only [byteAt_cons_of_ne _ _ hak] using heq a ha

/-- Canonical forms that read the same below `SIZE` are the same list, from whatever addresses up they are canonical. -/
theorem eq_of_byteAt_eq {lo lo' : Nat} {m m' : Memory} (h : memWfFrom lo m = true) (h' : memWfFrom lo' m' = true)
    (heq : ∀ a < 4096, byteAt m a = byteAt m' a) : m = m' := by
  induction m generalizing m' lo lo' with
  | nil =>
    cases m' with
    | nil => rfl
    | cons c' m' =>
      obtain ⟨-, hk, -, -⟩ := memWfFrom_cons.1 h'
      exact absurd (heq _ hk).symm (byteAt_ne_of_wfFrom_succ h' rfl)
  | cons c m ih =>
    obtain ⟨k, b⟩ := c
    obtain ⟨-, hk, hb, hm⟩ := memWfFrom_cons.1 h
    cases m' with
    | nil => exact absurd (heq k hk) (byteAt_ne_of_wfFrom_succ h rfl)
    | cons c' m' =>
      obtain ⟨k', b'⟩ := c'
      obtain ⟨-, hk', hb', hm'⟩ := memWfFrom_cons.1 h'
      obtain hlt | rfl | hlt := Nat.lt_trichotomy k k'
      · exact absurd (heq k hk) (byteAt_ne_of_wfFrom_succ h (memWfFrom_cons.2 ⟨hlt, hk', hb', hm'⟩))
      · obtain rfl : b = b' := by simpa only [byteAt_cons_self] using heq k hk
        rw [ih hm hm' (byteAt_tails_eq hm hm' heq)]
      · exact absurd (heq k' hk').symm (byteAt_ne_of_wfFrom_succ h' (memWfFrom_cons.2 ⟨hlt, hk, hb, hm⟩))

/-- Settles O48, by induction on the lists: at the lower of the two first addresses only one of them lists a byte. -/
theorem canonicalMemoriesAreEqualData : Obligations.CanonicalMemoriesAreEqualData :=
  fun _ _ => eq_of_byteAt_eq

/-! ## The byte order of the fetch (20_memory.md R63) -/

@[simp] theorem joinBytes_high (hi lo : Byte) : (joinBytes hi lo).extractLsb' 8 8 = hi :=
  BitVec.extractLsb'_append_eq_left

@[simp] theorem joinBytes_low (hi lo : Byte) : (joinBytes hi lo).extractLsb' 0 8 = lo :=
  BitVec.extractLsb'_append_eq_right

/-- Settles O6: the fetched word joins the bytes at `PC` and `PC + 1`, and each stands in its half of the word. -/
theorem fetchReadsBigEndianWord : Obligations.FetchReadsBigEndianWord := by
  intro s hs
  obtain ⟨hpc, -⟩ | ⟨hpc, -⟩ | ⟨-, hf⟩ := fetch_cases s
  · omega
  · omega
  · exact ⟨_, hf, joinBytes_high _ _, joinBytes_low _ _⟩

end Sys2Proof.Machine

/-! # Encoding (30_encoding.md)

Table, encoder and dispatch are related by three lemmas: the instruction of a matching row encodes to the word, the
dispatch reads an encoded instruction back, and a word that no row matches is reserved in the dispatch. From these the
decoder is the dispatch, and decoder and encoder are inverse to one another. -/

namespace Sys2Proof.Laws

/-! ## The fields of a word built by a format (30_encoding.md R91, R92) -/

@[simp] theorem fieldNNN_formatA (f : BitVec 4) (n : BitVec 12) : fieldNNN (formatA f n) = n := by
  apply BitVec.eq_of_toNat_eq
  rw [fieldNNN_toNat, formatA_toNat]; omega

@[simp] theorem fieldX_formatXI (f : BitVec 4) (x : Reg) (n : Byte) : fieldX (formatXI f x n) = x := by
  apply Fin.ext
  rw [fieldX_val, formatXI_toNat]; omega

@[simp] theorem fieldNN_formatXI (f : BitVec 4) (x : Reg) (n : Byte) : fieldNN (formatXI f x n) = n := by
  apply BitVec.eq_of_toNat_eq
  rw [fieldNN_toNat, formatXI_toNat]; omega

@[simp] theorem fieldX_formatXYN (f : BitVec 4) (x y : Reg) (n : BitVec 4) : fieldX (formatXYN f x y n) = x := by
  apply Fin.ext
  rw [fieldX_val, formatXYN_toNat]; omega

@[simp] theorem fieldY_formatXYN (f : BitVec 4) (x y : Reg) (n : BitVec 4) : fieldY (formatXYN f x y n) = y := by
  apply Fin.ext
  rw [fieldY_val, formatXYN_toNat]; omega

@[simp] theorem fieldN_formatXYN (f : BitVec 4) (x y : Reg) (n : BitVec 4) : fieldN (formatXYN f x y n) = n := by
  apply BitVec.eq_of_toNat_eq
  rw [fieldN_toNat, formatXYN_toNat]; omega

/-! ## A word is built from its fields, in each format -/

theorem formatA_fields (w : Word) : formatA (fieldFamily w) (fieldNNN w) = w := by
  apply BitVec.eq_of_toNat_eq
  rw [formatA_toNat, fieldFamily_toNat, fieldNNN_toNat]; omega

theorem formatXI_fields (w : Word) : formatXI (fieldFamily w) (fieldX w) (fieldNN w) = w := by
  apply BitVec.eq_of_toNat_eq
  rw [formatXI_toNat, fieldFamily_toNat, fieldX_val, fieldNN_toNat]; omega

theorem formatXYN_fields (w : Word) : formatXYN (fieldFamily w) (fieldX w) (fieldY w) (fieldN w) = w := by
  apply BitVec.eq_of_toNat_eq
  rw [formatXYN_toNat, fieldFamily_toNat, fieldX_val, fieldY_val, fieldN_toNat]; omega

/-! ## What a row of each mask matches (30_encoding.md R94, R96) -/

theorem rowMatches_iff (name : String) (p m w : Word) : rowMatches ⟨name, p, m⟩ w = true ↔ w &&& m = p := beq_iff_eq

/-- A mask acts on the parts of a concatenation. -/
theorem append_and_append {n m : Nat} {a ma a' : BitVec n} {b mb b' : BitVec m} (ha : a &&& ma = a')
    (hb : b &&& mb = b') : (a ++ b) &&& (ma ++ mb) = a' ++ b' := by
  rw [BitVec.and_append, ha, hb]

theorem and_familyMask (w : Word) : w &&& 0xF000 = formatA (fieldFamily w) 0 := by
  have h : formatA (fieldFamily w) (fieldNNN w) &&& formatA 0xF 0 = formatA (fieldFamily w) 0 :=
    append_and_append BitVec.and_allOnes BitVec.and_zero
  rwa [formatA_fields] at h

theorem and_familyNNMask (w : Word) : w &&& 0xF0FF = formatXI (fieldFamily w) 0 (fieldNN w) := by
  have h : formatXI (fieldFamily w) (fieldX w) (fieldNN w) &&& formatXI 0xF 0 0xFF =
      formatXI (fieldFamily w) 0 (fieldNN w) :=
    append_and_append (append_and_append BitVec.and_allOnes BitVec.and_zero) BitVec.and_allOnes
  rwa [formatXI_fields] at h

theorem and_familyNMask (w : Word) : w &&& 0xF00F = formatXYN (fieldFamily w) 0 0 (fieldN w) := by
  have h : formatXYN (fieldFamily w) (fieldX w) (fieldY w) (fieldN w) &&& formatXYN 0xF 0 0 0xF =
      formatXYN (fieldFamily w) 0 0 (fieldN w) :=
    append_and_append (append_and_append (append_and_append BitVec.and_allOnes BitVec.and_zero) BitVec.and_zero)
      BitVec.and_allOnes
  rwa [formatXYN_fields] at h

section
variable {name : String} {p w : Word} {f n : BitVec 4} {nn : Byte}

theorem rowMatches_word : rowMatches ⟨name, p, 0xFFFF⟩ w = true ↔ w = p := by
  have hw : w &&& 0xFFFF = w := BitVec.and_allOnes
  rw [rowMatches_iff, hw]

theorem rowMatches_family (hp : p = formatA f 0) : rowMatches ⟨name, p, 0xF000⟩ w = true ↔ fieldFamily w = f := by
  rw [rowMatches_iff, and_familyMask, hp]
  exact ⟨fun h => by simpa only [fieldFamily_formatA] using congrArg fieldFamily h, fun h => by rw [h]⟩

theorem rowMatches_familyN (hp : p = formatXYN f 0 0 n) :
    rowMatches ⟨name, p, 0xF00F⟩ w = true ↔ fieldFamily w = f ∧ fieldN w = n := by
  rw [rowMatches_iff, and_familyNMask, hp]
  refine ⟨fun h => ⟨?_, ?_⟩, fun ⟨hf, hn⟩ => by rw [hf, hn]⟩
  · simpa only [fieldFamily_formatXYN] using congrArg fieldFamily h
  · simpa only [fieldN_formatXYN] using congrArg fieldN h

theorem rowMatches_familyNN (hp : p = formatXI f 0 nn) :
    rowMatches ⟨name, p, 0xF0FF⟩ w = true ↔ fieldFamily w = f ∧ fieldNN w = nn := by
  rw [rowMatches_iff, and_familyNNMask, hp]
  refine ⟨fun h => ⟨?_, ?_⟩, fun ⟨hf, hn⟩ => by rw [hf, hn]⟩
  · simpa only [fieldFamily_formatXI] using congrArg fieldFamily h
  · simpa only [fieldNN_formatXI] using congrArg fieldNN h

/-! ## The word a matching row fixes, by the format of the row's instruction -/

theorem formatA_of_rowMatches (hp : p = formatA f 0) (h : rowMatches ⟨name, p, 0xF000⟩ w = true) :
    formatA f (fieldNNN w) = w := by
  rw [← (rowMatches_family hp).1 h, formatA_fields]

theorem formatXI_of_rowMatches (hp : p = formatA f 0) (h : rowMatches ⟨name, p, 0xF000⟩ w = true) :
    formatXI f (fieldX w) (fieldNN w) = w := by
  rw [← (rowMatches_family hp).1 h, formatXI_fields]

theorem formatXYN_of_rowMatches (hp : p = formatA f 0) (h : rowMatches ⟨name, p, 0xF000⟩ w = true) :
    formatXYN f (fieldX w) (fieldY w) (fieldN w) = w := by
  rw [← (rowMatches_family hp).1 h, formatXYN_fields]

theorem formatXF_of_rowMatches (hp : p = formatXI f 0 nn) (h : rowMatches ⟨name, p, 0xF0FF⟩ w = true) :
    formatXI f (fieldX w) nn = w := by
  obtain ⟨hf, hn⟩ := (rowMatches_familyNN hp).1 h
  rw [← hf, ← hn, formatXI_fields]

theorem formatXY_of_rowMatches (hp : p = formatXYN f 0 0 n) (h : rowMatches ⟨name, p, 0xF00F⟩ w = true) :
    formatXYN f (fieldX w) (fieldY w) n = w := by
  obtain ⟨hf, hn⟩ := (rowMatches_familyN hp).1 h
  rw [← hf, ← hn, formatXYN_fields]

end

/-! ## Table, encoder and dispatch (30_encoding.md R95, R97) -/

/-- The instruction of a matching row encodes to the word: the row fixes exactly the bits that are no operand. One term
per row, in the table's order, by the format of the row's instruction. -/
theorem encode_of_rowMatches {w : Word} : ∀ r ∈ decodeRows, rowMatches r.1 w = true → encode (r.2 w) = w := by
  simp only [decodeRows, List.forall_mem_cons]
  exact ⟨fun h => (rowMatches_word.1 h).symm, fun h => (rowMatches_word.1 h).symm,
    formatA_of_rowMatches rfl, formatA_of_rowMatches rfl,
    formatXI_of_rowMatches rfl, formatXI_of_rowMatches rfl, formatXY_of_rowMatches rfl,
    formatXI_of_rowMatches rfl, formatXI_of_rowMatches rfl,
    formatXY_of_rowMatches rfl, formatXY_of_rowMatches rfl, formatXY_of_rowMatches rfl,
    formatXY_of_rowMatches rfl, formatXY_of_rowMatches rfl, formatXY_of_rowMatches rfl,
    formatXYN_of_rowMatches rfl, formatXF_of_rowMatches rfl, formatXF_of_rowMatches rfl, nofun⟩

/-- The dispatch on the family reads an encoded instruction back. -/
theorem decodeByFamily_encode (i : Instr) : decodeByFamily (encode i) = .ok i := by
  cases i with
  | cls | ret => rfl
  | jp nnn | call nnn => simp [encode, decodeByFamily, fieldFamily_formatA]
  | skeqi x nn | sknei x nn | ldi x nn | addi x nn | skp x | sknp x =>
    simp [encode, decodeByFamily, fieldFamily_formatXI]
  | skeqr x y | mov x y | or x y | and x y | xor x y | add x y | sub x y | draw x y n =>
    simp [encode, decodeByFamily, fieldFamily_formatXYN]

/-- A word that no row matches is reserved in the dispatch too: each of its branches that gives an instruction tests
what the instruction's row tests. -/
theorem decodeByFamily_of_not_rowMatches {w : Word} (h : ∀ r ∈ decodeRows, ¬ rowMatches r.1 w = true) :
    decodeByFamily w = .error (.unknownOpcode w) := by
  simp only [decodeRows, List.forall_mem_cons] at h
  obtain ⟨cls, ret, jp, call, skeqi, sknei, skeqr, ldi, addi, mov, or, and, xor, add, sub, draw, skp, sknp, -⟩ := h
  unfold decodeByFamily
  split
  · rw [if_neg (mt rowMatches_word.2 cls), if_neg (mt rowMatches_word.2 ret)]
  · next hf => exact absurd ((rowMatches_family rfl).2 hf) jp
  · next hf => exact absurd ((rowMatches_family rfl).2 hf) call
  · next hf => exact absurd ((rowMatches_family rfl).2 hf) skeqi
  · next hf => exact absurd ((rowMatches_family rfl).2 hf) sknei
  · next hf => exact if_neg fun hn => skeqr ((rowMatches_familyN rfl).2 ⟨hf, hn⟩)
  · next hf => exact absurd ((rowMatches_family rfl).2 hf) ldi
  · next hf => exact absurd ((rowMatches_family rfl).2 hf) addi
  · next hf =>
    split
    · next hn => exact absurd ((rowMatches_familyN rfl).2 ⟨hf, hn⟩) mov
    · next hn => exact absurd ((rowMatches_familyN rfl).2 ⟨hf, hn⟩) or
    · next hn => exact absurd ((rowMatches_familyN rfl).2 ⟨hf, hn⟩) and
    · next hn => exact absurd ((rowMatches_familyN rfl).2 ⟨hf, hn⟩) xor
    · next hn => exact absurd ((rowMatches_familyN rfl).2 ⟨hf, hn⟩) add
    · next hn => exact absurd ((rowMatches_familyN rfl).2 ⟨hf, hn⟩) sub
    · rfl
  · next hf => exact absurd ((rowMatches_family rfl).2 hf) draw
  · next hf =>
    rw [if_neg fun hn => skp ((rowMatches_familyNN rfl).2 ⟨hf, hn⟩),
      if_neg fun hn => sknp ((rowMatches_familyNN rfl).2 ⟨hf, hn⟩)]
  · rfl

/-- Decoding a word, by the rows that match it: one does, and its instruction is the answer, or none does. -/
theorem decodeWord_rows (w : Word) :
    (∃ r ∈ decodeRows, rowMatches r.1 w = true ∧ decodeWord w = .ok (r.2 w)) ∨
    ((∀ r ∈ decodeRows, ¬ rowMatches r.1 w = true) ∧ decodeWord w = .error (.unknownOpcode w)) := by
  obtain ⟨r, hfind, hd⟩ | ⟨hfind, hd⟩ := decodeWord_cases w
  · exact .inl ⟨r, List.mem_of_find?_eq_some hfind, by simpa using List.find?_some hfind, hd⟩
  · exact .inr ⟨List.find?_eq_none.1 hfind, hd⟩

/-- Settles O4: where a row matches, the dispatch reads back the encoding of its instruction, which is the word; where
none does, the dispatch gives no instruction either. -/
theorem decoderAgreesWithFamilyDispatch : Obligations.DecoderAgreesWithFamilyDispatch := by
  intro w
  obtain ⟨r, hr, hm, hd⟩ | ⟨hnone, hd⟩ := decodeWord_rows w
  · calc decodeWord w = .ok (r.2 w) := hd
      _ = decodeByFamily (encode (r.2 w)) := (decodeByFamily_encode _).symm
      _ = decodeByFamily w := by rw [encode_of_rowMatches r hr hm]
  · rw [hd, decodeByFamily_of_not_rowMatches hnone]

/-- Settles O1: the decoder is the dispatch, which reads every encoded instruction back. -/
theorem encodeThenDecodeIsIdentity : Obligations.EncodeThenDecodeIsIdentity := fun i =>
  (decoderAgreesWithFamilyDispatch (encode i)).trans (decodeByFamily_encode i)

/-- Settles O2: the instruction decoded is that of a matching row. -/
theorem decodeThenEncodeIsIdentity : Obligations.DecodeThenEncodeIsIdentity := by
  intro w i h
  obtain ⟨r, hr, hm, hd⟩ | ⟨-, hd⟩ := decodeWord_rows w
  · obtain rfl : r.2 w = i := Except.ok.inj (hd.symm.trans h)
    exact encode_of_rowMatches r hr hm
  · rw [hd] at h; cases h

/-- Settles O5: each of the six legal words is the encoding of its instruction. -/
theorem sampleWordsDecode : Obligations.SampleWordsDecode :=
  ⟨encodeThenDecodeIsIdentity (.addi 3 0x0A), encodeThenDecodeIsIdentity (.draw 0 1 0x5),
    encodeThenDecodeIsIdentity .cls, encodeThenDecodeIsIdentity (.call 0x20A),
    encodeThenDecodeIsIdentity (.sub 2 3), encodeThenDecodeIsIdentity (.sknp 0), by decide⟩

/-! ## At most one row matches (30_encoding.md R94) -/

/-- No word matches both of two disjoint rows: it would have both values in a bit that both fix. -/
theorem not_rowMatches_of_disjoint {r q : Row} {w : Word} (h : rowsDisjoint r q = true)
    (hr : rowMatches r w = true) : ¬ rowMatches q w = true := by
  intro hq
  rw [rowMatches_iff] at hr hq
  have hzero : (w &&& r.mask ^^^ w &&& q.mask) &&& r.mask &&& q.mask = 0 := by
    ext k hk
    simp only [BitVec.getElem_and, BitVec.getElem_xor]
    cases w[k] <;> cases r.mask[k] <;> cases q.mask[k] <;> simp
  simp [rowsDisjoint, ← hr, ← hq, hzero] at h

/-- In a well-formed table at most one row matches a word. -/
theorem eq_of_rowMatches {α : Type} {rows : List (Row × α)} {r q : Row × α} {w : Word}
    (h : tableWellFormed (rows.map (·.1)) = true) (hr : r ∈ rows) (hq : q ∈ rows)
    (hrw : rowMatches r.1 w = true) (hqw : rowMatches q.1 w = true) : q = r := by
  induction rows with
  | nil => cases hr
  | cons p rows ih =>
    simp only [List.map_cons, tableWellFormed, Bool.and_eq_true, List.all_map, List.all_eq_true] at h
    obtain ⟨⟨-, hdisj⟩, htail⟩ := h
    obtain rfl | hr' := List.mem_cons.1 hr
    · obtain rfl | hq' := List.mem_cons.1 hq
      · rfl
      · exact absurd hqw (not_rowMatches_of_disjoint (hdisj q hq') hrw)
    · obtain rfl | hq' := List.mem_cons.1 hq
      · exact absurd hrw (not_rowMatches_of_disjoint (hdisj r hr') hqw)
      · exact ih htail hr' hq'

theorem opcodeTable_wellFormed : tableWellFormed opcodeTable = true := by decide

/-- Settles O3: the rows of the opcode map are pairwise disjoint, so the first that matches is the only one. -/
theorem decoderTakesTheOneMatchingRow : Obligations.DecoderTakesTheOneMatchingRow := by
  intro w
  obtain ⟨r, hr, hm, hd⟩ | ⟨hnone, hd⟩ := decodeWord_rows w
  · exact .inl ⟨r, hr, hm, fun q hq hqm => eq_of_rowMatches opcodeTable_wellFormed hr hq hm hqm, hd⟩
  · exact .inr ⟨fun r hr => Bool.eq_false_iff.2 (hnone r hr), hd⟩

end Sys2Proof.Laws

namespace Sys2Proof.Machine

/-! ## A reserved word in a step (40_step_cycle.md R128) -/

/-- A step on a reserved word reports the word and the `PC` it was fetched from. -/
theorem step_of_reserved {s : State} {w : Word} {e : DecodeError} (hf : fetch s = .ok w)
    (hd : decodeWord w = .error e) : step s = .fault (.unknownOpcode w s.pc) := by
  simp only [step, stepCycle, hf, hd]

theorem stepOp_of_fault {s : State} {f : Fault} (h : step s = .fault f) (p : Config.UnknownPolicy) :
    stepOp p s = (.fault f, stateAfterFault p f s) := by
  simp only [stepOp, h]

/-- Settles O9: the fault is the same under both policies, and `stateAfterFault` tells their states apart. -/
theorem reservedWordIsReported : Obligations.ReservedWordIsReported := by
  intro s w hf hd
  have hs : step s = .fault (.unknownOpcode w s.pc) := step_of_reserved hf hd
  exact ⟨hs, stepOp_of_fault hs .halt, stepOp_of_fault hs .skip⟩

end Sys2Proof.Machine

/-! # The step cycle (40_step_cycle.md)

A step by what its phases answer, the host operation `step` by what the step answers, and the two writes of `ADD` and
`SUB` as one form. -/

namespace Sys2Proof.Machine

/-! ## A step by its phases (40_step_cycle.md R120, R121, R129) -/

theorem step_of_fetch_error {s : State} {f : Fault} (hf : fetch s = .error f) : step s = .fault f := by
  simp only [step, stepCycle, hf]

theorem step_of_decoded {s : State} {w : Word} {i : Instr} (hf : fetch s = .ok w) (hd : decodeWord w = .ok i) :
    step s = exec i s := by
  simp only [step, stepCycle, hf, hd]

/-- Settles O7, by the two cases of a fetch that faults. -/
theorem fetchBeyondMemoryFaults : Obligations.FetchBeyondMemoryFaults := by
  intro s hs
  obtain ⟨hpc, hf⟩ | ⟨hpc, hf⟩ | ⟨hpc, -⟩ := fetch_cases s
  · rw [if_pos hpc, step_of_fetch_error hf]
  · rw [if_neg (by omega), hpc, step_of_fetch_error hf]
  · omega

theorem jump_self {s : State} {nnn : BitVec 12} (h : nnn.toNat = s.pc.toNat) : s.jump nnn = s := by
  have hpc : nnn.setWidth 16 = s.pc := by
    apply BitVec.eq_of_toNat_eq
    rw [BitVec.toNat_setWidth_of_le (by decide), h]
  rw [State.jump, hpc]
  rfl

/-- Settles O19: the word decodes to the jump, and the jump sets `PC` to what it is. -/
theorem selfJumpIsFixedPoint : Obligations.SelfJumpIsFixedPoint := by
  intro s nnn hf h
  calc step s = exec (.jp nnn) s := step_of_decoded hf (Laws.encodeThenDecodeIsIdentity (.jp nnn))
    _ = .next (s.jump nnn) := rfl
    _ = .next s := by rw [jump_self h]

/-- Settles O40: a tick is a change of the timers alone, and no instruction reads those. -/
theorem ticksDoNotChangeExecution : Obligations.TicksDoNotChangeExecution := by
  intro s
  rw [tickTimers_eq_mapDevices]
  exact step_mapDevices _ _ _ fun _ _ _ _ => rfl

/-! ## The host operation `step` (60_exceptions.md R201, R214) -/

theorem stepOp_of_next {s t : State} (h : step s = .next t) (p : Config.UnknownPolicy) : stepOp p s = (.ok, t) := by
  simp only [stepOp, h]

theorem stepOp_of_refused {s : State} {r : Refusal} (h : step s = .refused r) (p : Config.UnknownPolicy) :
    stepOp p s = (.refused r, s) := by
  simp only [stepOp, h]

/-- Settles O59, by the outcome of the step; on a loaded machine `operate` is `operateLoaded` by definition. -/
theorem operationsActOnTheState : Obligations.OperationsActOnTheState := fun p _ =>
  ⟨fun _ h => stepOp_of_next h p, fun _ h => congrArg Prod.fst (stepOp_of_fault h p),
    fun _ h => stepOp_of_refused h p, fun _ => rfl⟩

/-- Settles O8: below the last byte of memory the fetched word joins the two bytes that `decode` joins. -/
theorem stepRunsDecodedInstruction : Obligations.StepRunsDecodedInstruction := by
  intro s i hs hd
  obtain ⟨hpc, -⟩ | ⟨hpc, -⟩ | ⟨-, hf⟩ := fetch_cases s
  · omega
  · omega
  · have hstep : step s = exec i s := step_of_decoded hf hd
    exact ⟨hstep, fun p t h => stepOp_of_next (hstep.trans h) p⟩

/-! ## What a fault leaves (40_step_cycle.md R127, R128) -/

/-- No instruction's own fault is that of an unknown opcode (60_exceptions.md R200). -/
theorem FaultsWith.ne_unknownOpcode {i : Instr} {s : State} {f : Fault} (h : FaultsWith i s f) (w pc : Word) :
    f ≠ .unknownOpcode w pc := by
  rintro rfl
  cases h with
  | draw hf =>
    obtain ⟨-, -, he⟩ | ⟨-, -, -, he⟩ | ⟨-, he⟩ := spriteFault_cases s.i.toNat _ <;> rw [he] at hf <;> cases hf

theorem fetch_ne_unknownOpcode (s : State) (w pc : Word) : fetch s ≠ .error (.unknownOpcode w pc) := by
  intro h
  obtain ⟨-, he⟩ | ⟨-, he⟩ | ⟨-, he⟩ := fetch_cases s <;> rw [he] at h <;> cases h

/-- An unknown opcode is reported with the `PC` of the step. -/
theorem pc_of_step_unknownOpcode {s : State} {w pc : Word} (h : step s = .fault (.unknownOpcode w pc)) : pc = s.pc := by
  obtain ⟨f, hf, hs⟩ | ⟨w', e, -, -, hs⟩ | ⟨w', i, -, -, hs⟩ := step_cases s <;> rw [hs] at h
  · cases h
    exact absurd hf (fetch_ne_unknownOpcode s w pc)
  · cases h
    rfl
  · obtain ⟨t, he, -⟩ | ⟨f, he, hf⟩ | ⟨-, -, he⟩ := exec_cases i s <;> rw [he] at h <;> cases h
    exact absurd rfl (hf.ne_unknownOpcode w pc)

/-- A `step` that replies a fault leaves the state, or under `skip` moves `PC` past the unknown word (R128, D9). -/
theorem stepOp_faulting {p : Config.UnknownPolicy} {s : State} {f : Fault} (h : (stepOp p s).1 = .fault f) :
    (stepOp p s).2 = s ∨ (p = .skip ∧ ∃ w, f = .unknownOpcode w s.pc ∧ (stepOp p s).2 = s.advance) := by
  obtain ⟨t, -, he⟩ | ⟨e, hs, he⟩ | ⟨r, -, he⟩ := stepOp_cases p s <;> rw [he] at h ⊢ <;> cases h
  obtain hsame | ⟨hp, ⟨w, pc, rfl⟩, hadv⟩ := stateAfterFault_cases p f s
  · exact .inl hsame
  · obtain rfl := pc_of_step_unknownOpcode hs
    exact .inr ⟨hp, w, rfl, hadv⟩

/-- Settles O10: `load` and `step` are the operations that can fault. A `load` that faults sets nothing, and what a
faulting step leaves is the one exception of `stateAfterFault`. -/
theorem faultingOperationChangesNothing : Obligations.FaultingOperationChangesNothing := by
  intro p op s f h
  cases op with
  | load image =>
    left
    cases hl : loadImage image with
    | ok t => simp only [operateLoaded, hl] at h; cases h
    | error e => simp only [operateLoaded, hl]
  | step =>
    obtain hsame | ⟨hp, w, hf, hadv⟩ := stepOp_faulting h
    · exact .inl hsame
    · exact .inr ⟨hp, rfl, w, hf, hadv⟩
  | debugWrite item n =>
    cases hw : debugWrite item n s with
    | ok t => simp only [operateLoaded, hw] at h; cases h
    | error r => simp only [operateLoaded, hw] at h; cases h
  | _ => cases h

/-! ## The flag and the result of `ADD` and `SUB` (40_step_cycle.md R125, R126) -/

theorem flagIs_flagByte (c : Prop) [Decidable c] : flagIs (flagByte (decide c)) c :=
  ⟨fun h => by simp [flagByte, h], fun h => by simp [flagByte, h]⟩

/-- A change of the registers and `PC` alone leaves everything outside them. -/
theorem sameOutsideRegs_of_v_pc (s : State) (v : Vector Byte Config.nreg) (pc : Word) :
    sameOutsideRegs s { s with v := v, pc := pc } :=
  ⟨⟨rfl, fun _ => rfl⟩, ⟨fun _ _ => rfl, rfl⟩, fun _ => rfl, rfl, rfl, rfl, fun _ => rfl⟩

/-- What the shared form of `ADD` and `SUB` leaves: the result in its destination, even where that is F, the flag in
`VF` where the destination is another, and nothing else changed but `PC`. -/
theorem writeFlagAndResult_advance_spec (s : State) (x : Reg) (flag result : Byte) {t : State}
    (ht : t = (s.writeFlagAndResult Config.flagWriteOrder x flag result).advance) :
    t.readV x = result ∧ (x ≠ regF → t.readV regF = flag) ∧ t.pc = s.pc + 2 ∧
      sameRegsExcept [x, regF] s t ∧ sameOutsideRegs s t := by
  subst ht
  refine ⟨by simp, fun hx => by simp [Ne.symm hx], rfl, fun z hz => ?_, sameOutsideRegs_of_v_pc s _ _⟩
  simp only [List.mem_cons, List.not_mem_nil, or_false, not_or] at hz
  simp [hz]

/-- Settles O29: the sum and the carry are those of the old operands, written in the shared form. -/
theorem addWritesSumAndCarry : Obligations.AddWritesSumAndCarry := by
  intro x y s
  obtain ⟨hresult, hflag, hframe⟩ :=
    writeFlagAndResult_advance_spec s x (carryFlag (s.readV x) (s.readV y)) (s.readV x + s.readV y) rfl
  refine ⟨_, rfl, ?_, fun hx => ?_, hframe⟩
  · rw [hresult, BitVec.toNat_add]
  · rw [hflag hx]
    exact flagIs_flagByte _

/-- The difference of two bytes, over the integers mod 256 (00_scope.md R8). -/
theorem sub_toNat_emod (a b : Byte) : ((a - b).toNat : Int) = (a.toNat - b.toNat : Int) % 256 := by
  rw [BitVec.toNat_sub]
  omega

/-- Settles O30: the difference and the no-borrow flag are those of the old operands, written in the shared form. -/
theorem subWritesDifferenceAndNoBorrow : Obligations.SubWritesDifferenceAndNoBorrow := by
  intro x y s
  obtain ⟨hresult, hflag, hframe⟩ :=
    writeFlagAndResult_advance_spec s x (noBorrowFlag (s.readV x) (s.readV y)) (s.readV x - s.readV y) rfl
  refine ⟨_, rfl, ?_, fun hx => ?_, hframe⟩
  · rw [hresult, sub_toNat_emod]
  · rw [hflag hx]
    exact flagIs_flagByte _

/-- Writes of two different registers commute. -/
theorem State.writeV_comm {x z : Reg} (h : x ≠ z) (s : State) (a b : Byte) :
    (s.writeV x a).writeV z b = (s.writeV z b).writeV x a := by
  simp only [State.writeV, Vector.set_comm _ _ (Fin.val_ne_of_ne h)]

/-- Settles O31: writes of different registers commute; of two writes to `VF` the later stays. -/
theorem writeOrderMattersOnlyForVF : Obligations.WriteOrderMattersOnlyForVF := by
  intro x flag result s
  refine ⟨fun hx => State.writeV_comm hx s result flag, fun z hz => ?_, sameOutsideRegs_of_v_pc _ _ _, rfl, by simp,
    by simp⟩
  rw [List.mem_singleton] at hz
  simp [hz]

end Sys2Proof.Machine

/-! # Control transfer (41_control_flow.md)

Each of `RET` and `CALL` completes in one way, said once for the entry it pops or pushes; the statements about one
instruction read off that state. The round trip rests on one invariant more: while more than `k` entries are in use,
entry `k` keeps its value. -/

namespace Sys2Proof.Machine

/-! ## One instruction (R140 to R142) -/

/-- `RET` with `k + 1` entries in use pops entry `k`. -/
theorem exec_ret_of_used {s : State} {k : Fin 16} (hk : s.sp.toNat = k.val + 1) :
    exec .ret s = .next ((s.setSp (s.sp - 1)).setPc (s.readStk k)) := by
  obtain ⟨h0, -⟩ | ⟨h, -⟩ | ⟨h, -, he⟩ := popReturn_cases s
  · omega
  · omega
  · obtain rfl : k = ⟨s.sp.toNat - 1, h⟩ := Fin.ext (by simp only; omega)
    exact he

theorem exec_ret_of_empty {s : State} (hs : s.sp = 0) : exec .ret s = .fault .stackUnderflow := if_pos hs

/-- `CALL` with `k` entries in use, fewer than 16, pushes onto entry `k`. -/
theorem exec_call_of_free (nnn : BitVec 12) {s : State} {k : Fin 16} (hk : s.sp.toNat = k.val) :
    exec (.call nnn) s = .next (((s.writeStk k (s.pc + 2)).setSp (s.sp + 1)).jump nnn) := by
  obtain ⟨h, -⟩ | ⟨h, he⟩ := execCall_cases nnn s
  · omega
  · obtain rfl : k = ⟨s.sp.toNat, h⟩ := Fin.ext hk.symm
    exact he

theorem exec_call_of_full (nnn : BitVec 12) {s : State} (hs : 16 ≤ s.sp.toNat) :
    exec (.call nnn) s = .fault .stackOverflow := by
  obtain ⟨-, he⟩ | ⟨h, -⟩ := execCall_cases nnn s
  · exact he
  · omega

/-- The zero extension of a target keeps its value (30_encoding.md R93). -/
theorem jump_pc_toNat (s : State) (nnn : BitVec 12) : (s.jump nnn).pc.toNat = nnn.toNat :=
  BitVec.toNat_setWidth_of_le (by decide)

/-- A change of `PC` and the stack alone leaves everything outside them. -/
theorem sameOutsideStack_of_pc_sp_stk (s : State) (pc : Word) (sp : Byte) (stk : Vector Word Config.stackDepth) :
    sameRegsExcept [] s { s with pc := pc, sp := sp, stk := stk } ∧
      sameScreen s { s with pc := pc, sp := sp, stk := stk } ∧
      sameMemory s { s with pc := pc, sp := sp, stk := stk } ∧
      sameUnwritten s { s with pc := pc, sp := sp, stk := stk } :=
  ⟨fun _ _ => rfl, ⟨fun _ _ => rfl, rfl⟩, fun _ => rfl, rfl, rfl, rfl, fun _ => rfl⟩

/-- Settles O16: `JP` is a jump, which writes `PC` alone. -/
theorem jpSetsPc : Obligations.JpSetsPc := fun nnn s =>
  ⟨s.jump nnn, rfl, jump_pc_toNat s nnn, fun _ _ => rfl, sameOutsideRegs_of_v_pc s s.v _⟩

/-- Settles O14: the underflow, and the one state that a pop of entry `k` leaves. -/
theorem retPopsReturnAddress : Obligations.RetPopsReturnAddress := by
  refine fun s => ⟨exec_ret_of_empty, fun k hk => ?_⟩
  refine ⟨_, exec_ret_of_used hk, rfl, ?_, fun _ => rfl, sameOutsideStack_of_pc_sp_stk s _ _ s.stk⟩
  simp; omega

/-- Settles O17: the overflow, whose step leaves the state under either policy, and the one state that a push onto
entry `k` leaves. -/
theorem callPushesReturnAddress : Obligations.CallPushesReturnAddress := by
  refine fun nnn s => ⟨fun hs => ?_, fun k hk => ?_⟩
  · have hexec := exec_call_of_full nnn hs
    refine ⟨hexec, fun p hf => ?_⟩
    have hstep := (step_of_decoded hf (Laws.encodeThenDecodeIsIdentity (.call nnn))).trans hexec
    exact stepOp_of_fault hstep p
  · have hentry : (((s.writeStk k (s.pc + 2)).setSp (s.sp + 1)).jump nnn).readStk k = s.pc + 2 := by simp
    refine ⟨_, exec_call_of_free nnn hk, jump_pc_toNat _ nnn, ?_, hentry, fun hpc => ?_, fun j hj => by simp [hj],
      sameOutsideStack_of_pc_sp_stk s _ _ _⟩
    · simp; omega
    · rw [hentry]
      exact advance_pc_toNat (s := s) (by omega)

/-! ## The round trip of a call and its return (R143) -/

/-- An instruction changes no stack entry below the top: `CALL` writes the first entry not in use, no other writes any. -/
theorem Completes.readStk_of_lt_sp {i : Instr} {s t : State} (h : Completes i s t) {k : Fin 16}
    (hk : k.val < s.sp.toNat) : t.readStk k = s.readStk k := by
  cases h with
  | call j hj =>
    have hne : k ≠ j := by rintro rfl; omega
    simp [hne]
  | _ => rfl

theorem hostMove_readStk {s t : State} (h : hostMove s t) (k : Fin 16) : t.readStk k = s.readStk k := by
  obtain rfl | ⟨_, _, rfl⟩ | rfl := h <;> rfl

/-- While more than `k` entries are in use, entry `k` keeps its value. -/
theorem RunsAbove.readStk_eq {k : Fin 16} {s t : State} (h : RunsAbove k.val s t) : t.readStk k = s.readStk k := by
  induction h with
  | here _ => rfl
  | step hk hs _ ih =>
    obtain ⟨_, hc⟩ := step_completes hs
    exact ih.trans (hc.readStk_of_lt_sp hk)
  | host _ hm _ ih => exact ih.trans (hostMove_readStk hm k)

/-- Settles O18: the call writes `PC + 2` to entry `k`, the run keeps it, and the return pops that entry. -/
theorem callReturnsToNextInstruction : Obligations.CallReturnsToNextInstruction := by
  intro nnn s t u hcall hrun hsp
  cases exec_next hcall with
  | call k hk =>
    rw [hk] at hrun hsp
    obtain ⟨r, hret, hpc, hr, -⟩ := (retPopsReturnAddress u).2 k hsp
    refine ⟨r, hret, ?_, BitVec.eq_of_toNat_eq (hr.trans hk.symm)⟩
    calc r.pc = u.readStk k := hpc
      _ = (((s.writeStk k (s.pc + 2)).setSp (s.sp + 1)).jump nnn).readStk k := hrun.readStk_eq
      _ = s.pc + 2 := by simp
  | skip hi | load hi | arith hi => cases hi

end Sys2Proof.Machine

/-! # Conditional skips (42_conditional_skips.md, 45_input_skips.md)

Every skip is one `skipIf`; what it does is said once for its condition, and each instruction supplies its own. -/

namespace Sys2Proof.Machine

/-- A skip moves `PC` by 4 or 2 as its condition says, and changes nothing else. -/
theorem skipIf_spec (s : State) (c : Bool) :
    (c = true → (s.skipIf c).pc = s.pc + 4) ∧ (c = false → (s.skipIf c).pc = s.pc + 2) ∧
      sameRegsExcept [] s (s.skipIf c) ∧ sameOutsideRegs s (s.skipIf c) := by
  refine ⟨?_, ?_, fun _ _ => rfl, sameOutsideRegs_of_v_pc s s.v _⟩
  · rintro rfl
    rfl
  · rintro rfl
    rfl

/-- Settles O20: the condition of the skip is the equality of the register and the immediate. -/
theorem skeqiSkipsIfEqual : Obligations.SkeqiSkipsIfEqual := fun x nn s =>
  have ⟨hskip, hnext, hframe⟩ := skipIf_spec s (s.readV x == nn)
  ⟨_, rfl, fun heq => hskip (beq_iff_eq.2 heq), fun hne => hnext (beq_eq_false_iff_ne.2 hne), hframe⟩

/-- Settles O21: the condition of the skip is the negated equality, so the two cases of O20 change places. -/
theorem skneiSkipsIfDifferent : Obligations.SkneiSkipsIfDifferent := fun x nn s =>
  have ⟨hskip, hnext, hframe⟩ := skipIf_spec s (s.readV x != nn)
  ⟨_, rfl, fun hne => hskip (bne_iff_ne.2 hne), fun heq => hnext (bne_eq_false_iff_eq.2 heq), hframe⟩

/-- Settles O22: the condition of the skip is the equality of the two registers. -/
theorem skeqrSkipsIfEqual : Obligations.SkeqrSkipsIfEqual := fun x y s =>
  have ⟨hskip, hnext, hframe⟩ := skipIf_spec s (s.readV x == s.readV y)
  ⟨_, rfl, fun heq => hskip (beq_iff_eq.2 heq), fun hne => hnext (beq_eq_false_iff_ne.2 hne), hframe⟩

end Sys2Proof.Machine

/-! # Register load and ALU without a flag (43_load_and_alu.md R160 to R165)

The six instructions that write one register and no flag are one `loadV`; what it does is said once for the value
written, and each instruction supplies its own. -/

namespace Sys2Proof.Machine

/-- Loading a register leaves the value in its destination, even where that is F, and changes nothing else but `PC`. -/
theorem loadV_spec (s : State) (x : Reg) (b : Byte) :
    (s.loadV x b).readV x = b ∧ (s.loadV x b).pc = s.pc + 2 ∧
      sameRegsExcept [x] s (s.loadV x b) ∧ sameOutsideRegs s (s.loadV x b) := by
  refine ⟨by simp, rfl, fun z hz => ?_, sameOutsideRegs_of_v_pc s _ _⟩
  rw [List.mem_singleton] at hz
  simp [hz]

/-- Settles O25: the value loaded is the immediate. -/
theorem ldiLoadsImmediate : Obligations.LdiLoadsImmediate := fun x nn s => ⟨_, rfl, loadV_spec s x nn⟩

/-- Settles O26: the value loaded is the sum of the old register and the immediate, which bytes add mod 256. -/
theorem addiAddsImmediateModulo256 : Obligations.AddiAddsImmediateModulo256 := by
  intro x nn s
  obtain ⟨hresult, hframe⟩ := loadV_spec s x (s.readV x + nn)
  refine ⟨_, rfl, ?_, hframe⟩
  rw [hresult, BitVec.toNat_add]

/-- Settles O27: the value loaded is the old value of the source, also where the source is the destination. -/
theorem movCopiesRegister : Obligations.MovCopiesRegister := fun x y s => ⟨_, rfl, loadV_spec s x (s.readV y)⟩

/-- Loading a register with a byte known bit by bit leaves those bits in it. -/
theorem loadV_spec_of_bits (s : State) (x : Reg) (b : Byte) {bits : Nat → Bool} (hb : ∀ k, b.getLsbD k = bits k) :
    (∀ k, k < 8 → ((s.loadV x b).readV x).getLsbD k = bits k) ∧ (s.loadV x b).pc = s.pc + 2 ∧
      sameRegsExcept [x] s (s.loadV x b) ∧ sameOutsideRegs s (s.loadV x b) := by
  obtain ⟨hresult, hframe⟩ := loadV_spec s x b
  refine ⟨fun k _ => ?_, hframe⟩
  rw [hresult, hb]

/-- Settles O28: bit `k` of the value loaded is the operation on the old bits `k`; for `XOR` that is their inequality. -/
theorem logicOperationsCombineBits : Obligations.LogicOperationsCombineBits := fun x y s =>
  ⟨⟨_, rfl, loadV_spec_of_bits s x (s.readV x ||| s.readV y) fun _ => BitVec.getLsbD_or⟩,
    ⟨_, rfl, loadV_spec_of_bits s x (s.readV x &&& s.readV y) fun _ => BitVec.getLsbD_and⟩,
    ⟨_, rfl, loadV_spec_of_bits s x (s.readV x ^^^ s.readV y) fun _ => BitVec.getLsbD_xor⟩⟩

end Sys2Proof.Machine

/-! # The display (44_display.md)

A sprite is the list of the screen pixels under its 1 bits. No pixel stands in that list twice, since 8 columns and 15
rows do not wrap onto themselves, so drawing toggles each of its pixels once. -/

namespace Sys2Proof.Machine

/-! ## Toggling a list of pixels (44_display.md R181) -/

/-- One pixel toggled, its old value added to the collisions: what `drawBit` does for a 1 bit. -/
def togglePixel (p : Framebuffer × Bool) (q : Fin 64 × Fin 32) : Framebuffer × Bool :=
  (setPixel p.1 q.1 q.2 (!pixel p.1 q.1 q.2), p.2 || pixel p.1 q.1 q.2)

theorem pixel_togglePixel (p : Framebuffer × Bool) (q q' : Fin 64 × Fin 32) :
    pixel (togglePixel p q).1 q'.1 q'.2 = if q' = q then !pixel p.1 q'.1 q'.2 else pixel p.1 q'.1 q'.2 := by
  simp only [togglePixel, pixel_setPixel, ← Prod.ext_iff]
  split
  · next h => rw [h]
  · rfl

/-- Toggling pixels that differ from each other inverts each of them and no other. -/
theorem pixel_foldl_togglePixel {qs : List (Fin 64 × Fin 32)} (hqs : qs.Nodup) (p : Framebuffer × Bool)
    (q : Fin 64 × Fin 32) :
    pixel (qs.foldl togglePixel p).1 q.1 q.2 = if q ∈ qs then !pixel p.1 q.1 q.2 else pixel p.1 q.1 q.2 := by
  induction qs generalizing p with
  | nil => rfl
  | cons q' qs ih =>
    obtain ⟨hq', hqs⟩ := List.nodup_cons.1 hqs
    rw [List.foldl_cons, ih hqs, pixel_togglePixel]
    by_cases h : q = q'
    · subst h
      simp [hq']
    · simp [h]

/-- Toggling pixels that differ from each other collides iff one of them was 1 at the start. -/
theorem collided_foldl_togglePixel {qs : List (Fin 64 × Fin 32)} (hqs : qs.Nodup) (p : Framebuffer × Bool) :
    (qs.foldl togglePixel p).2 = true ↔ p.2 = true ∨ ∃ q ∈ qs, pixel p.1 q.1 q.2 = true := by
  induction qs generalizing p with
  | nil => simp
  | cons q' qs ih =>
    obtain ⟨hq', hqs⟩ := List.nodup_cons.1 hqs
    have hold : ∀ q ∈ qs, pixel (togglePixel p q').1 q.1 q.2 = pixel p.1 q.1 q.2 := fun q hq =>
      (pixel_togglePixel p q' q).trans (if_neg (ne_of_mem_of_not_mem hq hq'))
    have hrest : (∃ q ∈ qs, pixel (togglePixel p q').1 q.1 q.2 = true) ↔ ∃ q ∈ qs, pixel p.1 q.1 q.2 = true :=
      exists_congr fun q => and_congr_right fun hq => by rw [hold q hq]
    rw [List.foldl_cons, ih hqs, hrest]
    simp [togglePixel, or_assoc]

/-! ## The pixels of a sprite -/

/-- The screen pixels under the 1 bits of the sprite rows `rs`, in the order they are drawn. -/
def spritePixels (x0 y0 : Byte) (rowAt : Nat → Byte) (rs : List Nat) : List (Fin 64 × Fin 32) :=
  ((rs ×ˢ List.range 8).filter fun c => spriteBit (rowAt c.1) c.2).map fun c => (screenX x0 c.2, screenY y0 c.1)

theorem drawRow_eq_foldl_togglePixel (x0 y0 : Byte) (r : Nat) (row : Byte) (p : Framebuffer × Bool) :
    drawRow x0 y0 r row p =
      (((List.range 8).filter (spriteBit row)).map fun b => (screenX x0 b, screenY y0 r)).foldl togglePixel p := by
  rw [List.foldl_map, List.foldl_filter]
  rfl

theorem spritePixels_cons (x0 y0 : Byte) (rowAt : Nat → Byte) (r : Nat) (rs : List Nat) :
    spritePixels x0 y0 rowAt (r :: rs) =
      (((List.range 8).filter (spriteBit (rowAt r))).map fun b => (screenX x0 b, screenY y0 r)) ++
        spritePixels x0 y0 rowAt rs := by
  simp [spritePixels, List.product_cons, List.filter_map, Function.comp_def]

/-- Drawing sprite rows is toggling their pixels. -/
theorem drawRows_eq_foldl_togglePixel (x0 y0 : Byte) (rowAt : Nat → Byte) (r n : Nat) (p : Framebuffer × Bool) :
    drawRows x0 y0 r ((List.range' r n).map rowAt) p =
      (spritePixels x0 y0 rowAt (List.range' r n)).foldl togglePixel p := by
  induction n generalizing r p with
  | zero => rfl
  | succ n ih =>
    rw [List.range'_succ, spritePixels_cons, List.foldl_append, ← drawRow_eq_foldl_togglePixel, ← ih]
    rfl

/-- Different bits of a sprite of at most 32 rows lie on different pixels. -/
theorem spritePixels_nodup (x0 y0 : Byte) (rowAt : Nat → Byte) {n : Nat} (hn : n ≤ 32) :
    (spritePixels x0 y0 rowAt (List.range n)).Nodup := by
  refine List.Nodup.map_on ?_ ((List.nodup_range.product List.nodup_range).filter _)
  rintro ⟨r, b⟩ hc ⟨r', b'⟩ hc' h
  simp only [List.mem_filter, List.mem_product, List.mem_range] at hc hc'
  simp only [screenX_eq, screenY_eq, Prod.mk.injEq, Fin.ext_iff, Fin.val_ofNat] at h
  obtain ⟨hx, hy⟩ := h
  exact Prod.ext (by omega) (by omega)

/-- Row `r` of the sprite at `I`. -/
def State.spriteRow (s : State) (r : Nat) : Byte := s.readByte (s.i.toNat + r)

/-- The pixels of the sprite at `I` are those that `spriteCovers` names. -/
theorem mem_spritePixels_iff (s : State) (x0 y0 : Byte) (n : Nat) (a : Fin 64) (b : Fin 32) :
    (a, b) ∈ spritePixels x0 y0 s.spriteRow (List.range n) ↔
      spriteCovers s x0.toNat y0.toNat n a b := by
  simp only [spritePixels, State.spriteRow, spriteCovers, spriteBit, screenX_eq, screenY_eq, List.mem_map,
    List.mem_filter, Prod.exists, List.mem_product, List.mem_range, Prod.mk.injEq, Fin.ext_iff, Fin.val_ofNat,
    and_assoc, exists_and_left]

/-! ## `CLS` (44_display.md R180) -/

/-- Settles O32: the screen becomes the blank one, and no other field but `NR` and `PC` is written. -/
theorem clsClearsScreen : Obligations.ClsClearsScreen := fun s =>
  ⟨((s.setFb blankScreen).setNr true).advance, rfl, pixel_blankScreen, rfl, rfl, fun _ _ => rfl, ⟨rfl, fun _ => rfl⟩,
    fun _ => rfl, rfl, rfl, rfl, fun _ => rfl⟩

/-! ## `DRAW` (44_display.md R181, R182) -/

/-- Settles O33, by the two cases of a sprite that leaves memory. -/
theorem drawOutsideMemoryFaults : Obligations.DrawOutsideMemoryFaults := by
  intro x y n s hs
  obtain ⟨-, hi, hf⟩ | ⟨-, hi, -, hf⟩ | ⟨hin, -⟩ := spriteFault_cases s.i.toNat n.toNat
  · simp only [exec, execDraw, hf, if_pos hi]
  · simp only [exec, execDraw, hf, if_neg (Nat.not_le.2 hi)]
  · exact absurd hin hs

/-- The screen and the collision after the sprite of `n` rows at `I` is drawn at (`x0`, `y0`). -/
def drawnSprite (s : State) (x0 y0 : Byte) (n : Nat) : Framebuffer × Bool :=
  drawRows x0 y0 0 (spriteRows s s.i.toNat n) (s.fb, false)

theorem exec_draw_of_spriteInMemory (x y : Reg) {n : BitVec 4} {s : State} (h : spriteInMemory s n) :
    exec (.draw x y n) s =
      .next (((s.setFb (drawnSprite s (s.readV x) (s.readV y) n.toNat).1).writeV regF
        (collisionFlag (drawnSprite s (s.readV x) (s.readV y) n.toNat).2)).setNr true).advance := by
  unfold spriteInMemory at h
  obtain ⟨hn, hi, -⟩ | ⟨hn, -, hi, -⟩ | ⟨-, hf⟩ := spriteFault_cases s.i.toNat n.toNat
  · omega
  · omega
  · simp only [exec, execDraw, hf]
    rfl

theorem drawnSprite_eq_foldl_togglePixel (s : State) (x0 y0 : Byte) (n : Nat) :
    drawnSprite s x0 y0 n = (spritePixels x0 y0 s.spriteRow (List.range n)).foldl togglePixel (s.fb, false) := by
  rw [drawnSprite, spriteRows, List.range_eq_range']
  exact drawRows_eq_foldl_togglePixel x0 y0 s.spriteRow 0 n (s.fb, false)

theorem pixel_drawnSprite (s : State) (x0 y0 : Byte) {n : Nat} (hn : n ≤ 32) (a : Fin 64) (b : Fin 32) :
    (spriteCovers s x0.toNat y0.toNat n a b → pixel (drawnSprite s x0 y0 n).1 a b = !pixel s.fb a b) ∧
      (¬ spriteCovers s x0.toNat y0.toNat n a b → pixel (drawnSprite s x0 y0 n).1 a b = pixel s.fb a b) := by
  have h := pixel_foldl_togglePixel (spritePixels_nodup x0 y0 s.spriteRow hn) (s.fb, false) (a, b)
  simp only [← drawnSprite_eq_foldl_togglePixel, mem_spritePixels_iff] at h
  exact ⟨fun hc => h.trans (if_pos hc), fun hc => h.trans (if_neg hc)⟩

theorem collided_drawnSprite (s : State) (x0 y0 : Byte) {n : Nat} (hn : n ≤ 32) :
    (drawnSprite s x0 y0 n).2 = true ↔ ∃ a b, spriteCovers s x0.toNat y0.toNat n a b ∧ pixel s.fb a b = true := by
  rw [drawnSprite_eq_foldl_togglePixel, collided_foldl_togglePixel (spritePixels_nodup x0 y0 _ hn)]
  simp only [Prod.exists, mem_spritePixels_iff, Bool.false_eq_true, false_or]

/-- Settles O34: the pixels of the sprite differ from each other, so each is toggled once and collides as it was. -/
theorem drawTogglesCoveredPixels : Obligations.DrawTogglesCoveredPixels := by
  intro x y n s hs
  have hn : n.toNat ≤ 32 := by omega
  refine ⟨_, exec_draw_of_spriteInMemory x y hs, pixel_drawnSprite s _ _ hn, ?_, rfl, rfl, fun z hz => ?_,
    ⟨rfl, fun _ => rfl⟩, fun _ => rfl, rfl, rfl, rfl, fun _ => rfl⟩
  · rw [← collided_drawnSprite s _ _ hn]
    simpa [collisionFlag] using flagIs_flagByte ((drawnSprite s (s.readV x) (s.readV y) n.toNat).2 = true)
  · rw [List.mem_singleton] at hz
    simp [hz]

/-- A `DRAW` that completes had its sprite in memory. -/
theorem spriteInMemory_of_exec_draw {x y : Reg} {n : BitVec 4} {s t : State} (h : exec (.draw x y n) s = .next t) :
    spriteInMemory s n := by
  by_contra hs
  rw [drawOutsideMemoryFaults x y n s hs] at h
  cases h

/-- Settles O35: the second draw covers the same pixels, and toggles each of them back; a covered pixel is 1 between the
two draws iff it was 0 before them. -/
theorem drawTwiceRestoresScreen : Obligations.DrawTwiceRestoresScreen := by
  intro x y n s t h hx hy
  have hs := spriteInMemory_of_exec_draw h
  obtain ⟨t', ht, hpix, -, -, -, -, -, hmem, hi, -⟩ := drawTogglesCoveredPixels x y n s hs
  obtain rfl : t = t' := by
    rw [h] at ht
    cases ht
    rfl
  obtain ⟨u, hu, hpix', hflag, -⟩ := drawTogglesCoveredPixels x y n t (by rwa [spriteInMemory, hi])
  simp only [spriteCovers, hx, hy, hi, hmem] at hpix' hflag
  refine ⟨u, hu, fun a b => ?_, ?_⟩
  · by_cases hc : spriteCovers s (s.readV x).toNat (s.readV y).toNat n.toNat a b
    · rw [(hpix' a b).1 hc, (hpix a b).1 hc, Bool.not_not]
    · rw [(hpix' a b).2 hc, (hpix a b).2 hc]
  · have hbetween : (∃ a b, spriteCovers s (s.readV x).toNat (s.readV y).toNat n.toNat a b ∧ pixel t.fb a b = true) ↔
        ∃ a b, spriteCovers s (s.readV x).toNat (s.readV y).toNat n.toNat a b ∧ pixel s.fb a b = false :=
      exists₂_congr fun a b => and_congr_right fun hc => by rw [(hpix a b).1 hc, Bool.not_eq_true']
    rwa [← hbetween]

end Sys2Proof.Machine

/-! # Key skips (45_input_skips.md)

Both are the `skipIf` of the conditional skips, with the latch of the key that the register names as the condition. -/

namespace Sys2Proof.Machine

/-- The key a register names is the one whose id is its value mod 16 (45_input_skips.md R190, D13). -/
theorem keyPressed_eq_readKey {s : State} {x : Reg} {k : Fin 16} (h : (s.readV x).toNat % 16 = k.val) :
    s.keyPressed x = s.readKey k :=
  congrArg s.readKey (Fin.ext ((keyId_val _).trans h))

/-- Settles O23: the condition of the skip is the latch of the key named. -/
theorem skpSkipsIfPressed : Obligations.SkpSkipsIfPressed := fun x _ s hk =>
  have ⟨hskip, hnext, hframe⟩ := skipIf_spec s (s.keyPressed x)
  have hkey := keyPressed_eq_readKey hk
  ⟨_, rfl, fun hdown => hskip (hkey.trans hdown), fun hup => hnext (hkey.trans hup), hframe⟩

/-- Settles O24: the condition of the skip is the negated latch, so the two cases of O23 change places. -/
theorem sknpSkipsIfNotPressed : Obligations.SknpSkipsIfNotPressed := fun x _ s hk =>
  have ⟨hskip, hnext, hframe⟩ := skipIf_spec s (!s.keyPressed x)
  have hkey := keyPressed_eq_readKey hk
  ⟨_, rfl, fun hup => hskip (congrArg not (hkey.trans hup)),
    fun hdown => hnext (congrArg not (hkey.trans hdown)), hframe⟩

end Sys2Proof.Machine

/-! # Host operations, timers, sound and the debug port (60_exceptions.md)

The execute-phase faults, what each host operation answers and changes, and what holds of a machine whose debug port is
not used. -/

namespace Sys2Proof.Machine

/-! ## The quiet machine (R211, 70_reset_and_hazards.md R246) -/

/-- A sprite whose bytes are all 0x00 leaves the screen as it is. -/
theorem drawnSprite_of_zero_rows {s : State} (x0 y0 : Byte) {n : Nat} (h : ∀ r, r < n → s.spriteRow r = 0) :
    drawnSprite s x0 y0 n = (s.fb, false) := by
  have hnone : spritePixels x0 y0 s.spriteRow (List.range n) = [] := by
    rw [spritePixels, List.map_eq_nil_iff, List.filter_eq_nil_iff]
    rintro ⟨r, b⟩ hc
    obtain ⟨hr, -⟩ := List.mem_product.1 hc
    simp [h r (List.mem_range.1 hr), spriteBit]
  rw [drawnSprite_eq_foldl_togglePixel, hnone, List.foldl_nil]

theorem exec_draw_fb {x y : Reg} {n : BitVec 4} {s t : State} (h : exec (.draw x y n) s = .next t) :
    t.fb = (drawnSprite s (s.readV x) (s.readV y) n.toNat).1 := by
  rw [exec_draw_of_spriteInMemory x y (spriteInMemory_of_exec_draw h)] at h
  cases h
  rfl

/-- At `I` = 0 a sprite of at most 15 rows reads the bytes 0 to 14, so nothing is drawn on a quiet machine. -/
theorem exec_fb_of_quiet {i : Instr} {s t : State} (hs : s.Quiet) (h : exec i s = .next t) : t.fb = s.fb := by
  obtain ⟨hi, -, -, hfb, hmem⟩ := hs
  cases i with
  | cls => cases h; exact hfb.symm
  | draw x y n =>
    have hrows : ∀ r, r < n.toNat → s.spriteRow r = 0 := fun r hr => by
      rw [State.spriteRow, hi, show (0 : Word).toNat + r = r from Nat.zero_add r]
      exact hmem r (by omega)
    rw [exec_draw_fb h, drawnSprite_of_zero_rows _ _ hrows]
  | _ => exact ((screenChangesRequestRedraw _ s t h).2 (by simp)).1

/-- `State.Quiet` speaks of `I`, the timers, the screen and memory alone. -/
theorem State.Quiet.of_same {s t : State} (hs : s.Quiet) (hi : t.i = s.i) (hdt : t.dt = s.dt) (hst : t.st = s.st)
    (hfb : t.fb = s.fb) (hmem : t.mem = s.mem) : t.Quiet := by
  simpa only [State.Quiet, State.readByte, hi, hdt, hst, hfb, hmem] using hs

theorem step_quiet {s t : State} (hs : s.Quiet) (h : step s = .next t) : t.Quiet := by
  obtain ⟨_, i, -, -, -, he⟩ := step_next h
  obtain ⟨hmem, hi, hdt, hst, -⟩ := (exec_next he).sameUnwritten
  exact hs.of_same hi hdt hst (exec_fb_of_quiet hs he) hmem

theorem stepOp_quiet {s : State} (hs : s.Quiet) (p : Config.UnknownPolicy) : (stepOp p s).2.Quiet := by
  obtain ⟨t, ht, he⟩ | ⟨f, -, he⟩ | ⟨r, -, he⟩ := stepOp_cases p s <;> rw [he]
  · exact step_quiet hs ht
  · obtain hf | ⟨-, -, hf⟩ := stateAfterFault_cases p f s <;> rw [hf]
    · exact hs
    · exact hs.of_same rfl rfl rfl rfl rfl
  · exact hs

/-- The image stands above the bytes a sprite at `I` = 0 could read. -/
theorem loadImage_quiet {image : List Byte} {t : State} (h : loadImage image = .ok t) : t.Quiet := by
  obtain hl | hl := Nat.lt_or_ge 3584 image.length
  · rw [loadImage_error hl] at h; cases h
  · obtain ⟨u, he, hu, -, hbytes⟩ := loadImage_ok hl
    obtain rfl : u = t := Except.ok.inj (he.symm.trans h)
    obtain ⟨hi, hdt, hst, hfb, hmem⟩ := reset_quiet
    refine ⟨by rw [hu, hi], by rw [hu, hdt], by rw [hu, hst], by rw [hu, hfb], fun a ha => ?_⟩
    rw [hbytes, if_neg (by omega), hmem a ha]

theorem tickTimers_quiet {s : State} (hs : s.Quiet) : (tickTimers s).Quiet := by
  obtain ⟨hi, hdt, hst, hfb, hmem⟩ := hs
  refine ⟨hi, ?_, ?_, hfb, hmem⟩
  · simp [tickTimers, tickDown, hdt]
  · simp [tickTimers, tickDown, hst]

theorem operateLoaded_quiet {s : State} (hs : s.Quiet) (p : Config.UnknownPolicy) {op : Op}
    (hop : ∀ item n, op ≠ .debugWrite item n) : (operateLoaded p op s).2.Quiet := by
  cases op with
  | load image =>
    cases h : loadImage image with
    | ok t => simpa only [operateLoaded, h] using loadImage_quiet h
    | error f => simpa only [operateLoaded, h] using hs
  | step => exact stepOp_quiet hs p
  | tickTimers => exact tickTimers_quiet hs
  | setKey | frameConsumed => exact hs.of_same rfl rfl rfl rfl rfl
  | readFrame | soundActive | debugRead => exact hs
  | debugWrite item n => exact absurd rfl (hop item n)

/-- An operation on the machine just constructed: it stays so, or a `load` succeeds (70_reset_and_hazards.md R245). -/
theorem operate_constructed_cases (p : Config.UnknownPolicy) (op : Op) :
    (operate p op .constructed).2 = .constructed ∨
    ∃ image t, loadImage image = .ok t ∧ (operate p op .constructed).2 = .loaded t := by
  by_cases h : ∃ image, op = .load image
  · obtain ⟨image, rfl⟩ := h
    cases hl : loadImage image with
    | ok t => exact .inr ⟨image, t, hl, by rw [operate_constructed_load_ok p hl]⟩
    | error f => exact .inl (by rw [operate_constructed_load_error p hl])
  · exact .inl (by rw [operate_constructed_of_ne_load p (not_exists.1 h)])

/-- Settles O46: a successful `load` leaves a quiet machine, and on a quiet machine a tick leaves the timers at 0, a
step writes neither `I` nor memory, and a sprite, whose bytes are all 0x00, draws nothing. -/
theorem quietMachineStaysQuiet : Obligations.QuietMachineStaysQuiet := by
  intro p op m hop hm
  cases m with
  | loaded s => exact operateLoaded_quiet hm p hop
  | constructed =>
    obtain he | ⟨_, t, hl, he⟩ := operate_constructed_cases p op <;> rw [he]
    · trivial
    · exact loadImage_quiet hl

/-! ## The faults of the execute phase (R200, R202) -/

theorem exec_fault {i : Instr} {s : State} {f : Fault} (h : exec i s = .fault f) : FaultsWith i s f := by
  obtain ⟨t, he, -⟩ | ⟨g, he, hg⟩ | ⟨-, -, he⟩ := exec_cases i s <;> rw [he] at h <;> cases h
  exact hg

/-- Settles O11, by the three forms of `FaultsWith`. -/
theorem onlyRetCallDrawFault : Obligations.OnlyRetCallDrawFault := by
  intro i s f h
  cases exec_fault h with
  | ret hs => exact .inl ⟨rfl, BitVec.eq_of_toNat_eq hs, rfl⟩
  | call hs => exact .inr (.inl ⟨_, rfl, hs, rfl⟩)
  | @draw x y n =>
    have hout : ¬ spriteInMemory s n := fun hin => by
      rw [exec_draw_of_spriteInMemory x y hin] at h
      cases h
    rw [drawOutsideMemoryFaults x y n s hout] at h
    cases h
    exact .inr (.inr ⟨x, y, n, rfl, hout, rfl⟩)

/-! ## Timers, keys, frame, sound (R210, R218, R220, R221, R224) -/

theorem tickDown_toNat (n : Byte) : (tickDown n).toNat = n.toNat - 1 := by
  unfold tickDown
  split
  · next h => simp [h]
  · next h =>
    have hpos : n.toNat ≠ 0 := fun h0 => h (BitVec.eq_of_toNat_eq h0)
    rw [BitVec.toNat_sub_of_le (by rw [BitVec.le_def]; exact Nat.one_le_iff_ne_zero.2 hpos)]
    rfl

/-- Settles O52: each timer is counted down by itself. -/
theorem tickDecrementsTimers : Obligations.TickDecrementsTimers := fun _ s =>
  ⟨tickTimers s, rfl, tickDown_toNat s.dt, tickDown_toNat s.st, rfl⟩

/-- Settles O53: `set_key` is the write of one key. -/
theorem setKeySetsOneKey : Obligations.SetKeySetsOneKey := fun _ id pressed s =>
  ⟨s.writeKey id pressed, rfl, State.writeKey_readKey s id pressed, rfl⟩

/-- Settles O54: of the index `y * 64 + x` the remainder by 64 is `x` and the quotient is `y`. -/
theorem readFrameReturnsPixels : Obligations.ReadFrameReturnsPixels := by
  intro p s
  refine ⟨framePixels s, rfl, by simp [framePixels_eq], fun x y => ?_⟩
  have hx : Fin.ofNat 64 (y.val * 64 + x.val) = x := Fin.ext (by simp only [Fin.val_ofNat]; omega)
  have hy : Fin.ofNat 32 ((y.val * 64 + x.val) / 64) = y := Fin.ext (by simp only [Fin.val_ofNat]; omega)
  rw [framePixels_eq, List.getElem?_map, List.getElem?_range (by omega), Option.map_some, hx, hy]

/-- Settles O55: `frame_consumed` is the write of `NR`. -/
theorem frameConsumedClearsRedraw : Obligations.FrameConsumedClearsRedraw := fun _ _ => rfl

/-- Settles O56: the level is the decision whether `ST` is above 0. -/
theorem soundActiveWhileTimerRuns : Obligations.SoundActiveWhileTimerRuns := fun _ s =>
  ⟨soundActive s, rfl, decide_eq_true_iff⟩

/-! ## The debug port (R227, D20) -/

section
variable {item : Item} {n max : Nat}

theorem operateLoaded_debugWrite_ok (p : Config.UnknownPolicy) (s : State) (hm : debugMax item = some max)
    (hn : n ≤ max) : operateLoaded p (.debugWrite item n) s = (.ok, debugStore item n s) := by
  simp only [operateLoaded, debugWrite, hm, if_pos hn]

theorem operateLoaded_debugWrite_refused (p : Config.UnknownPolicy) (s : State)
    (h : ∀ max, debugMax item = some max → max < n) :
    operateLoaded p (.debugWrite item n) s = (.refused .debugWriteRefused, s) := by
  obtain he | ⟨max, hm, hn, -⟩ := debugWrite_cases item n s
  · simp only [operateLoaded, he]
  · exact absurd hn (Nat.not_le.2 (h max hm))

/-- A bit written as 0 or 1 reads as what was written. -/
theorem toNat_bne_zero (hn : n ≤ 1) : (n != 0).toNat = n := by
  interval_cases n <;> rfl

/-- An item reads as the value within its bound that was stored. -/
theorem debugRead_debugStore_self (s : State) (hm : debugMax item = some max) (hn : n ≤ max) :
    debugRead item (debugStore item n s) = n := by
  cases item with
  | key | mem => cases hm
  | fb | nr =>
    cases hm
    simpa [debugRead, debugStore] using toNat_bne_zero hn
  | _ =>
    cases hm
    simp only [debugRead, debugStore, State.writeV_readV, State.writeStk_readStk, if_true, BitVec.toNat_ofNat]
    exact Nat.mod_eq_of_lt (Nat.lt_of_le_of_lt hn (by decide))

/-- A store changes the item it names alone. -/
theorem debugRead_debugStore_of_ne {other : Item} (h : other ≠ item) (n : Nat) (s : State) :
    debugRead other (debugStore item n s) = debugRead other s := by
  cases item with
  | key | mem => rfl
  | i | pc | sp | dt | st | nr => cases other <;> simp [debugRead, debugStore] at h ⊢
  | v | stk | fb => cases other <;> simp_all [debugRead, debugStore, -not_and]

end

/-- Settles O57: the value is within the item's bound, so it is stored, and a store changes one item. -/
theorem debugWriteSetsOneItem : Obligations.DebugWriteSetsOneItem := by
  intro p item s
  refine ⟨by cases item <;> rfl, fun n hn => ?_⟩
  obtain ⟨max, hm, hmax⟩ : ∃ max, debugMax item = some max ∧ n ≤ max := by
    cases item with
    | key | mem => exact hn.elim
    | _ => exact ⟨_, rfl, hn⟩
  refine ⟨debugStore item n s, operateLoaded_debugWrite_ok p s hm hmax, fun other v hv => ?_⟩
  obtain rfl : debugRead other s = v := by
    cases hv
    rfl
  by_cases ho : other = item
  · rw [if_pos ho, ho, operateLoaded, debugRead_debugStore_self s hm hmax]
  · rw [if_neg ho, operateLoaded, debugRead_debugStore_of_ne ho]

/-- Settles O58: each refused value is above the item's bound, and keys and memory have none. -/
theorem debugWriteRefusals : Obligations.DebugWriteRefusals := by
  intro p item n s h
  refine operateLoaded_debugWrite_refused p s fun max hm => ?_
  cases item with
  | key | mem => cases hm
  | _ =>
    cases hm
    exact h

end Sys2Proof.Machine

/-! # `load` on a loaded machine (70_reset_and_hazards.md R240 to R242) -/

namespace Sys2Proof.Machine

theorem operateLoaded_load_ok (p : Config.UnknownPolicy) {image : List Byte} {t : State} (h : loadImage image = .ok t)
    (s : State) : operateLoaded p (.load image) s = (.ok, t) := by
  simp only [operateLoaded, h]

theorem operateLoaded_load_error (p : Config.UnknownPolicy) {image : List Byte} {f : Fault}
    (h : loadImage image = .error f) (s : State) : operateLoaded p (.load image) s = (.fault f, s) := by
  simp only [operateLoaded, h]

/-- Settles O50, by the outcome of `load`, which does not depend on the state it replaces. -/
theorem loadResetsAndPlacesImage : Obligations.LoadResetsAndPlacesImage := by
  intro p image s
  refine ⟨fun hl => operateLoaded_load_error p (loadImage_error hl) s, fun hl => ?_⟩
  obtain ⟨t, he, ht, -, hbytes⟩ := loadImage_ok hl
  exact ⟨t, operateLoaded_load_ok p he s, ht, hbytes⟩

end Sys2Proof.Machine
